-- ==== Sys2Proof/Word.lean ====
section
/-! DEFINITION. The byte, the only width the spec moves on SRC and DST (00 R8, 20 R56). -/

namespace Sys2Proof

/-- A byte: 8 bits, value 0 to 255 (00 R8). -/
abbrev Byte := BitVec 8

/-- The low 8 bits of a natural, `n & 0xFF` (00 R9). -/
abbrev byte (n : Nat) : Byte := BitVec.ofNat 8 n

end Sys2Proof
end

