-- ==== Sys2Proof/Config.lean ====
section
/-! DEFINITION. The constants of the format (00 R7), the defaults of the two configuration
parameters (00 R6), and the free values: what the spec leaves unspecified, as constants without a body. -/

namespace Sys2Proof.Config

/-- First header byte, normal form (00 R7). -/
def magic0 : Nat := 0x10
/-- First header byte, extended form, low bit set (00 R7). -/
def magic0Ext : Nat := 0x11
/-- Second header byte (00 R7). -/
def magic1 : Nat := 0xFB
/-- Length of the normal header (00 R7). -/
def hdrLen : Nat := 5
/-- Largest uncompressed size (00 R7). -/
def sizeMax : Nat := 0xFFFFFF
/-- Cap on the common-prefix length the finder measures (00 R7, 41 R116). -/
def maxMatch : Nat := 1028
/-- Smallest RawRun and granularity of RawRun lengths (00 R7). -/
def rawStep : Nat := 4
/-- Largest RawRun (00 R7, 90 C1). -/
def rawMax : Nat := 112
/-- First control byte value that is a Terminal (00 R7, 30 R78). -/
def termBase : Nat := 0xFC
/-- Number of HEAD buckets (00 R7). -/
def keyCount : Nat := 65536
/-- Default of `WINDOW_BITS` (00 R6). -/
def windowBitsDefault : Nat := 17
/-- Largest legal `WINDOW_BITS` (00 R6). -/
def windowBitsMax : Nat := 17
/-- Default of `MAX_HOPS` (00 R6). -/
def maxHopsDefault : Nat := 50
/-- `srcLen` at or above this is refused (60 R212). -/
def srcLenLimit : Nat := 2 ^ 32

/-- What an unlisted index of SRC or DST reads as. DESIGN CHOICE (log 1): the spec gives unwritten bytes no
value. Unsafe: a proof could lean on the zero; no operation reads such a byte (20 R65, 43 R175). -/
def unlistedByte : Byte := 0

/-- Free value of the natural-valued register `k` at the `d`-th drawing (10 R29, R39; 60 R197). -/
opaque freeNat : Nat → Nat → Nat
/-- Free value of the byte register `k` at the `d`-th drawing (10 R29, R39; 60 R197). -/
opaque freeByte : Nat → Nat → Byte
/-- Free value of `cand` at the `d`-th drawing (10 R39, 93 U6). -/
opaque freeCand : Nat → Option Nat
/-- Free contents of entry `i` of the `d`-th unspecified PREV table (10 R32, 93 U2). -/
opaque freePrev : Nat → Nat → Option Nat
/-- Free contents of HEAD at the `d`-th drawing, as entries (60 R197, 93 U4). -/
opaque freeHead : Nat → List (Nat × Nat)
/-- Free contents of DST at the `d`-th drawing, as bytes (60 R197, 93 U4). -/
opaque freeDst : Nat → List (Nat × Byte)

end Sys2Proof.Config
end

