-- ==== Sys2Proof/Syntax.lean ====
section
/-! DEFINITION. The instructions: the five tokens of spec/opcode_table.json (30 R72). A token's literal bytes are not
part of it: they are read from SRC when the token executes (30 R72, 43 R173). -/

namespace Sys2Proof

/-- A token, by the fields of its control bytes at their natural values (30 R80, R87). -/
inductive Instr where
  /-- ShortMatch (30 R73). -/
  | shortMatch (literalLen matchLen offset : Nat)
  /-- MediumMatch (30 R74). -/
  | mediumMatch (literalLen matchLen offset : Nat)
  /-- LongMatch (30 R75). -/
  | longMatch (literalLen matchLen offset : Nat)
  /-- RawRun (30 R76). -/
  | rawRun (length : Nat)
  /-- Terminal (30 R77). -/
  | terminal (literalLen : Nat)
  deriving DecidableEq, Repr

end Sys2Proof
end

