-- ==== Sys2Proof/WellFormed.lean ====
section
/-! DEFINITION. The ranges of the token fields (30 R73 to R77): a token that some control bytes spell. -/

namespace Sys2Proof

/-- `literalLen` of a match or Terminal token: a 2-bit field (30 R73 to R75, R77). -/
def literalLenOk (lit : Nat) : Bool := decide (lit ≤ 3)

/-- `lo ≤ x ≤ hi`. -/
def inRange (lo hi x : Nat) : Bool := decide (lo ≤ x) && decide (x ≤ hi)

/-- The fields are in the ranges of the token's kind (30 R73 to R77). -/
def Instr.wf : Instr → Bool
  | .shortMatch lit len off => literalLenOk lit && inRange 3 10 len && inRange 1 1024 off
  | .mediumMatch lit len off => literalLenOk lit && inRange 4 67 len && inRange 1 16384 off
  | .longMatch lit len off => literalLenOk lit && inRange 5 1028 len && inRange 1 131072 off
  | .rawRun len => inRange 4 112 len && decide (len % 4 = 0)
  | .terminal lit => literalLenOk lit

end Sys2Proof
end

