-- ==== Sys2Proof/Decode.lean ====
section
/-! DEFINITION. The opcode map (30 R78), decoding of control bytes (30 R80), encoding (30 R81), and the written syntax of
tokens (30 R87). -/

namespace Sys2Proof

/-- The five kinds of token (30 R72). -/
inductive Kind where
  | shortMatch | mediumMatch | longMatch | rawRun | terminal
  deriving DecidableEq, Repr

/-- Number of control bytes `C` of a kind (30 R79). -/
def Kind.controlBytes : Kind → Nat
  | .shortMatch => 2
  | .mediumMatch => 3
  | .longMatch => 4
  | .rawRun => 1
  | .terminal => 1

/-- The kind of a token. -/
def Instr.kind : Instr → Kind
  | .shortMatch _ _ _ => .shortMatch
  | .mediumMatch _ _ _ => .mediumMatch
  | .longMatch _ _ _ => .longMatch
  | .rawRun _ => .rawRun
  | .terminal _ => .terminal

/-- Literal count `L` of a token (30 R79). -/
def Instr.literals : Instr → Nat
  | .shortMatch lit _ _ => lit
  | .mediumMatch lit _ _ => lit
  | .longMatch lit _ _ => lit
  | .rawRun len => len
  | .terminal lit => lit

/-- Output bytes a token produces (30 R79). -/
def Instr.produced : Instr → Nat
  | .shortMatch lit len _ => lit + len
  | .mediumMatch lit len _ => lit + len
  | .longMatch lit len _ => lit + len
  | .rawRun len => len
  | .terminal lit => lit

/-- The opcode map on `byte0`, the Terminal test first (30 R78, 43 R165, 70 R237). -/
def kindOf (b0 : Byte) : Kind :=
  if b0.toNat ≥ 0xFC then .terminal
  else if b0.toNat &&& 0x80 = 0x00 then .shortMatch
  else if b0.toNat &&& 0xC0 = 0x80 then .mediumMatch
  else if b0.toNat &&& 0xE0 = 0xC0 then .longMatch
  else .rawRun

/-- Field extraction of a ShortMatch (30 R73, 43 R166). -/
def unpackShort (b0 b1 : Byte) : Instr :=
  .shortMatch (b0.toNat &&& 3) (((b0.toNat >>> 2) &&& 7) + 3) (((b0.toNat >>> 5) <<< 8) + b1.toNat + 1)

/-- Field extraction of a MediumMatch (30 R74, 43 R167). -/
def unpackMedium (b0 b1 b2 : Byte) : Instr :=
  .mediumMatch ((b1.toNat >>> 6) &&& 3) ((b0.toNat &&& 0x3F) + 4) ((b1.toNat &&& 0x3F) * 256 + b2.toNat + 1)

/-- Field extraction of a LongMatch (30 R75, 43 R168). -/
def unpackLong (b0 b1 b2 b3 : Byte) : Instr :=
  .longMatch (b0.toNat &&& 3) (((b0.toNat >>> 2) &&& 3) * 256 + b3.toNat + 5)
    (((b0.toNat &&& 0x10) <<< 12) + 256 * b1.toNat + b2.toNat + 1)

/-- Field extraction of a RawRun (30 R76, 43 R169). -/
def unpackRaw (b0 : Byte) : Instr := .rawRun ((b0.toNat &&& 0x1F) * 4 + 4)

/-- Field extraction of a Terminal (30 R77, 43 R170). -/
def unpackTerminal (b0 : Byte) : Instr := .terminal (b0.toNat &&& 3)

/-- Why bytes are no token's control bytes. No value of `byte0` is illegal (30 R83): only missing bytes reject. -/
inductive DecodeReject where
  /-- There is no `byte0` (43 R178). -/
  | noControlByte
  /-- A control byte after `byte0` is missing (60 R193 b). -/
  | cutShort (k : Kind)
  deriving DecidableEq, Repr

/-- The token at the head of a byte sequence, and the bytes after its control bytes (30 R79, R80). -/
def decode : List Byte → Except DecodeReject (Instr × List Byte)
  | [] => .error .noControlByte
  | b0 :: rest =>
    match kindOf b0 with
    | .terminal => .ok (unpackTerminal b0, rest)
    | .rawRun => .ok (unpackRaw b0, rest)
    | .shortMatch =>
      match rest with
      | b1 :: r => .ok (unpackShort b0 b1, r)
      | [] => .error (.cutShort .shortMatch)
    | .mediumMatch =>
      match rest with
      | b1 :: b2 :: r => .ok (unpackMedium b0 b1 b2, r)
      | _ => .error (.cutShort .mediumMatch)
    | .longMatch =>
      match rest with
      | b1 :: b2 :: b3 :: r => .ok (unpackLong b0 b1 b2 b3, r)
      | _ => .error (.cutShort .longMatch)

/-- Control bytes of a token (30 R81), `o` being `offset - 1`. -/
def encode : Instr → List Byte
  | .shortMatch lit len off =>
    [byte (((off - 1) >>> 8) <<< 5 ||| (len - 3) <<< 2 ||| lit), byte ((off - 1) &&& 0xFF)]
  | .mediumMatch lit len off =>
    [byte (0x80 ||| (len - 4)), byte (lit <<< 6 ||| (off - 1) >>> 8), byte ((off - 1) &&& 0xFF)]
  | .longMatch lit len off =>
    [byte (0xC0 ||| ((off - 1) >>> 16) <<< 4 ||| ((len - 5) >>> 8) <<< 2 ||| lit),
      byte (((off - 1) >>> 8) &&& 0xFF), byte ((off - 1) &&& 0xFF), byte ((len - 5) &&& 0xFF)]
  | .rawRun len => [byte (0xE0 + (len / 4 - 1))]
  | .terminal lit => [byte (0xFC ||| lit)]

/-- Longest token of the format, control and literal bytes (30 R79). -/
def longestToken : Nat := 113

/-- The control bytes a table word stands for: the low `nbits` bits of `w`, first byte least significant, as many
as the longest control part has. -/
def tableBytes (nbits w : Nat) : List Byte :=
  let v := w % 2 ^ nbits
  [byte v, byte (v >>> 8), byte (v >>> 16), byte (v >>> 24)]

/-- The token the decoder reads from a table word. -/
def decodeTableWord (nbits w : Nat) : Option Instr :=
  match decode (tableBytes nbits w) with
  | .ok (i, _) => some i
  | .error _ => none

/-- Two hexadecimal digits of a byte (30 R87). -/
def hexByte (b : Byte) : String :=
  String.ofList [(b.toNat / 16).digitChar.toUpper, (b.toNat % 16).digitChar.toUpper]

/-- Literal bytes as the listing writes them: two-digit hexadecimal bytes (30 R87). -/
def literalListing (lits : List Byte) : String :=
  " :" ++ String.join (lits.map fun b => " " ++ hexByte b)

/-- One line of a token listing (30 R87). -/
def Instr.listing (i : Instr) (lits : List Byte) : String :=
  let fields := fun (lit len off : Nat) =>
    " lit=" ++ toString lit ++ " len=" ++ toString len ++ " off=" ++ toString off
  match i with
  | .shortMatch lit len off => "ShortMatch" ++ fields lit len off ++ literalListing lits
  | .mediumMatch lit len off => "MediumMatch" ++ fields lit len off ++ literalListing lits
  | .longMatch lit len off => "LongMatch" ++ fields lit len off ++ literalListing lits
  | .rawRun len => "RawRun len=" ++ toString len ++ literalListing lits
  | .terminal lit => "Terminal lit=" ++ toString lit ++ literalListing lits

/-- The header line of a token listing (30 R87). -/
def headerListing (size : Nat) (ext : Bool) : String :=
  "Header size=" ++ toString size ++ (if ext then " ext" else "")

end Sys2Proof
end

