-- ==== Sys2Proof/Machine/State.lean ====
section
/-! DEFINITION. The state of QFS-CORE (10 R20 to R41), the host's acts (70 R225, R227), the reasons a step can stop, and the
state at power-on. -/

namespace Sys2Proof.Machine

/-- The operation in progress (10 R23). -/
inductive Op where
  | idle | compress | decompress
  deriving DecidableEq, Repr

/-- `status` (10 R24). -/
inductive Status where
  | busy | done | failed
  deriving DecidableEq, Repr

/-- The three failures (60 R190). `err` holds one of them, or `none` for the spec's `None`. -/
inductive Failure where
  | inputTooLarge | invalidMagic | corrupt
  deriving DecidableEq, Repr

/-- The decoder's state (10 R28). -/
inductive DState where
  | running | terminalRead | done
  deriving DecidableEq, Repr

/-- The model parameter `HDR_EXT_LEN`, the length of the extended header: 9, or 8 under the other reading of 90 C9
(00 R6, 92 D17; log 12). -/
inductive HdrExtLen where
  | nine | eight
  deriving DecidableEq, Repr

/-- The four storage spaces (20 R50). -/
inductive Space where
  | src | dst | head | prev
  deriving DecidableEq, Repr

/-- A byte space: index and byte pairs, indices strictly rising, no byte equal to `Config.unlistedByte`. -/
abbrev Memory := List Host.Cell

/-- HEAD: key and position pairs, keys strictly rising; an unlisted key holds `NONE` (10 R31). -/
abbrev HeadTable := List (Nat × Nat)

/-- PREV: index and entry pairs, indices strictly rising; an unlisted index has not been written by the
operation (10 R32). -/
abbrev PrevTable := List (Nat × Option Nat)

/-- What a start command asks for (70 R225); a parameter not given is `none`. Parameters are integers so that a
negative one can be refused (60 R212). -/
inductive Job where
  | compress (windowBits maxHops : Option Int)
  | decompress
  deriving DecidableEq, Repr

/-- A start command (70 R225): the operation, the input buffer and its length, and whether the output buffer is
disjoint from it (70 R226 f). -/
structure StartCmd where
  job : Job
  src : List Host.Cell
  srcLen : Nat
  disjoint : Bool
  deriving DecidableEq, Repr

/-- An act of the host (70 R225, R227): start an operation, read or write a buffer or table, or try to cancel. -/
inductive HostAct where
  | start (c : StartCmd)
  | access (sp : Space)
  | cancel
  deriving DecidableEq, Repr

/-- The state. Registers keep the spec's names; `port`, `draw` and `prevInit` are the model's own. -/
structure State where
  /-- Operation in progress (10 R23). -/
  op : Op
  /-- Busy, ended with a result, or ended with a failure (10 R24). -/
  status : Status
  /-- The failure, `none` unless `status` is failed (10 R24). -/
  err : Option Failure
  /-- Number of bytes of SRC (10 R25). -/
  srcLen : Nat
  /-- `WINDOW_BITS` (00 R6, 10 R36). -/
  windowBits : Nat
  /-- `MAX_HOPS` (00 R6, 10 R36). -/
  maxHops : Nat
  /-- `HDR_EXT_LEN`, a parameter of the machine: no step writes it (00 R6, 92 D17; log 12). -/
  hdrExtLen : HdrExtLen
  /-- The decoder's read index into SRC, its program counter (10 R26). -/
  ip : Nat
  /-- The decoder's write position in DST (10 R27). -/
  wp : Nat
  /-- Uncompressed size declared by the header (10 R27). -/
  size : Nat
  /-- Header length (10 R27). -/
  hlen : Nat
  /-- The decoder's state (10 R28). -/
  dstate : DState
  /-- Control bytes of the current token (10 R29). -/
  b0 : Byte
  b1 : Byte
  b2 : Byte
  b3 : Byte
  /-- Literal count, of the decoder and of the encoder (10 R29, R30, R40). -/
  lit : Nat
  /-- Match length of the current token (10 R29). -/
  mlen : Nat
  /-- Offset of the current token (10 R29). -/
  off : Nat
  /-- Next position to evaluate, the encoder's program counter (10 R30). -/
  scan : Nat
  /-- Next position not yet emitted (10 R30). -/
  flushed : Nat
  /-- Number of bytes appended to DST (10 R30). -/
  dlen : Nat
  /-- The 2-byte prefix at `scan` (10 R30). -/
  key : Nat
  /-- Candidate position being examined (10 R30). -/
  cand : Option Nat
  /-- Candidates examined at this `scan` (10 R30). -/
  hops : Nat
  /-- Common-prefix length of the candidate (10 R30). -/
  curLen : Nat
  /-- Longest common prefix seen at this `scan` (10 R30). -/
  bestLen : Nat
  /-- Distance of the candidate that gave `bestLen` (10 R30). -/
  bestOff : Nat
  /-- HEAD (10 R31). -/
  head : HeadTable
  /-- PREV (10 R32). -/
  prev : PrevTable
  /-- SRC (10 R33). -/
  src : Memory
  /-- DST (10 R34). -/
  dst : Memory
  /-- The host's pending act (70 R225; log 9). The model's own. -/
  port : Option HostAct
  /-- Number of drawings of free values so far (logs 4, 5, 6). The model's own. -/
  draw : Nat
  /-- Which free table PREV held when the operation started (log 6). The model's own. -/
  prevInit : Nat
  deriving DecidableEq, Repr

/-- The reasons a step stops with a fault. -/
inductive Fault where
  /-- The last branch of the shape selection, raised by the encoder when no token shape fits (42 R151, 93 U15).
  Unreachable on the hardware, so safe. -/
  | noShapeFits
  deriving DecidableEq, Repr

/-- The reasons a step is refused: the block is used outside its contract (60 R212). All but the first are
raised by the host port: the spec gives these situations no meaning. -/
inductive Refusal where
  /-- An instruction without a meaning, by its mnemonic; raised by `exec`. Safe. -/
  | notModelled (mnemonic : String)
  /-- `WINDOW_BITS` outside 0 to 17 (60 R212, 93 U8). Safe. -/
  | windowBitsOutOfRange
  /-- A negative `MAX_HOPS` (60 R212, 93 U8). Safe. -/
  | maxHopsNegative
  /-- `srcLen` of 2^32 or more (60 R212, 93 U11). Safe. -/
  | srcLenTooLarge
  /-- SRC and DST overlap (60 R212, 93 U10). Safe. -/
  | buffersOverlap
  /-- A start command while an operation runs (60 R212, 93 U9). Unsafe for a host that gives one (log 21). -/
  | startWhileBusy
  /-- The host reads or writes SRC, DST, HEAD or PREV while an operation runs (60 R212, 93 U9). Unsafe for a host that
  does (log 21). -/
  | accessWhileBusy
  /-- The host reads or writes HEAD or PREV, which it cannot see (10 R38 a; log 10). Safe. -/
  | tablesHidden
  /-- The host tries to cancel: there are no cancellation points (60 R196, 70 R227; log 10). Safe while idle, unsafe
  for a host that cancels a running operation (log 21). -/
  | cancelUnsupported
  deriving DecidableEq, Repr

/-- Power-on (10 R39): `op`, `err`, `WINDOW_BITS` and `MAX_HOPS` as the spec gives them, `HDR_EXT_LEN` at its default 9
(00 R6); every other register at a value the model names (DESIGN CHOICE, log 2: zero, `status` done, `dstate`
running, `cand` NONE); nothing listed in any space. -/
def State.reset : State where
  op := .idle
  status := .done
  err := none
  srcLen := 0
  windowBits := Config.windowBitsDefault
  maxHops := Config.maxHopsDefault
  hdrExtLen := .nine
  ip := 0
  wp := 0
  size := 0
  hlen := 0
  dstate := .running
  b0 := 0
  b1 := 0
  b2 := 0
  b3 := 0
  lit := 0
  mlen := 0
  off := 0
  scan := 0
  flushed := 0
  dlen := 0
  key := 0
  cand := none
  hops := 0
  curLen := 0
  bestLen := 0
  bestOff := 0
  head := []
  prev := []
  src := []
  dst := []
  port := none
  draw := 0
  prevInit := 0

end Sys2Proof.Machine
end

