-- ==== Sys2Proof/Machine/Flags.lean ====
section
/-! DEFINITION. The flag-like state: `status`, `err`, `dstate` (10 R35). The block has no arithmetic flag and no token
writes one. -/

namespace Sys2Proof.Machine

/-- The code of `err` (60 R190). -/
def errCode : Option Failure → Nat
  | none => 0
  | some .inputTooLarge => 1
  | some .invalidMagic => 2
  | some .corrupt => 3

/-- An operation is running (10 R24). -/
def State.busy (s : State) : Bool := s.status == .busy

/-- The loop of the decoder exits on a Terminal's `byte0` (10 R28, 43 R170). -/
def exitLoop (s : State) : State := { s with dstate := .terminalRead }

/-- The Terminal step is over (10 R28, 43 R170). -/
def markDone (s : State) : State := { s with dstate := .done }

end Sys2Proof.Machine
end

