-- ==== Sys2Proof/Machine/Ops.lean ====
section
/-! DEFINITION. The named operations: the four spaces (20 R50), appending to the output (00 R10), the ends of an operation
(60 R197, R198), what the spec leaves unspecified (10 R29, R39), and the state at an operation's start (10 R39). -/

namespace Sys2Proof.Machine

/-! ## Lists of index and entry pairs -/

/-- The entry at an index. -/
def Sparse.look {α : Type} : List (Nat × α) → Nat → Option α
  | [], _ => none
  | (b, x) :: r, a => if a = b then some x else Sparse.look r a

/-- Sets the entry at an index, keeping the indices rising. -/
def Sparse.put {α : Type} : List (Nat × α) → Nat → α → List (Nat × α)
  | [], a, v => [(a, v)]
  | (b, x) :: r, a, v =>
    if a < b then (a, v) :: (b, x) :: r
    else if a = b then (a, v) :: r
    else (b, x) :: Sparse.put r a v

/-- Removes the entry at an index. -/
def Sparse.drop {α : Type} (m : List (Nat × α)) (a : Nat) : List (Nat × α) :=
  m.filter fun c => c.1 != a

/-- Indices strictly rising. -/
abbrev Sparse.Rising {α : Type} (m : List (Nat × α)) : Prop :=
  m.Pairwise fun c d => c.1 < d.1

/-! ## SRC and DST -/

/-- `MemRead(S, a, 1)` (00 R10). -/
def Memory.read (m : Memory) (a : Nat) : Byte := (Sparse.look m a).getD Config.unlistedByte

/-- `MemWrite(S, a, 1, v)` (00 R10). -/
def Memory.write (m : Memory) (a : Nat) (v : Byte) : Memory :=
  if v = Config.unlistedByte then Sparse.drop m a else Sparse.put m a v

/-- The canonical form: indices strictly rising, no listed byte equal to what an unlisted index reads as. -/
abbrev Memory.wf (m : Memory) : Prop :=
  Sparse.Rising m ∧ ∀ c ∈ m, c.2 ≠ Config.unlistedByte

/-- Writes bytes at ascending indices. -/
def Memory.writeBytes : Memory → Nat → List Byte → Memory
  | m, _, [] => m
  | m, a, v :: vs => Memory.writeBytes (Memory.write m a v) (a + 1) vs

/-- Sets the `k` bytes from index `a` on to what unlisted indices read as. -/
def Memory.clear (m : Memory) (a k : Nat) : Memory :=
  m.filter fun c => decide (c.1 < a) || decide (a + k ≤ c.1)

/-- The `k` bytes from index `a` on, `S[a .. a+k-1]` (00 R9). -/
def Memory.slice (m : Memory) (a : Nat) : Nat → List Byte
  | 0 => []
  | k + 1 => Memory.read m a :: Memory.slice m (a + 1) k

/-- The canonical memory with the given cells, a later cell replacing an earlier one. -/
def Memory.ofCells (cs : List Host.Cell) : Memory :=
  cs.foldl (fun m c => Memory.write m c.1 c.2) []

/-! ## HEAD and PREV -/

/-- `TabRead(HEAD, k)` (00 R10, 10 R31). -/
def headRead (s : State) (k : Nat) : Option Nat := Sparse.look s.head k

/-- `TabWrite(HEAD, k, p)` (00 R10). -/
def headWrite (k p : Nat) (s : State) : State := { s with head := Sparse.put s.head k p }

/-- `TabRead(PREV, i)`: an entry the operation has not written is a free value (10 R32, 20 R59, 93 U2). -/
def prevRead (s : State) (i : Nat) : Option Nat :=
  (Sparse.look s.prev i).getD (Config.freePrev s.prevInit i)

/-- `TabWrite(PREV, i, e)` (00 R10). -/
def prevWrite (i : Nat) (e : Option Nat) (s : State) : State := { s with prev := Sparse.put s.prev i e }

/-- A HEAD table with the given entries, keys below `KEY_COUNT` only (10 R31). -/
def headOfEntries (es : List (Nat × Nat)) : HeadTable :=
  (es.filter fun e => decide (e.1 < Config.keyCount)).foldl (fun m e => Sparse.put m e.1 e.2) []

/-- The window size `W = 2^WINDOW_BITS` (00 R6). -/
def window (s : State) : Nat := 2 ^ s.windowBits

/-! ## Appending to the output (COMPRESS) -/

/-- `Append(v)` (00 R10, 42 R150). -/
def append (v : Byte) (s : State) : State :=
  { s with dst := Memory.write s.dst s.dlen v, dlen := s.dlen + 1 }

/-- Appends bytes in order. -/
def appendAll : List Byte → State → State
  | [], s => s
  | v :: vs, s => appendAll vs (append v s)

/-! ## What the spec leaves unspecified: free values -/

/-- A free register value: any 32-bit value (10 R22). -/
def freeReg (d k : Nat) : Nat := Config.freeNat d k % 2 ^ 32

/-- A free decoder state (10 R28: without meaning). -/
def freeDState (d : Nat) : DState :=
  match Config.freeNat d 8 % 3 with
  | 0 => .running
  | 1 => .terminalRead
  | _ => .done

/-- The decoder's token temporaries become unspecified (10 R29, 93 U6). -/
def dropTokenTemps (s : State) : State :=
  { s with
    b0 := Config.freeByte s.draw 0
    b1 := Config.freeByte s.draw 1
    b2 := Config.freeByte s.draw 2
    b3 := Config.freeByte s.draw 3
    lit := freeReg s.draw 9
    mlen := freeReg s.draw 10
    off := freeReg s.draw 11
    draw := s.draw + 1 }

/-- The encoder's and finder's temporaries become unspecified (10 R39, 93 U6). -/
def dropFinderTemps (s : State) : State :=
  { s with
    lit := freeReg s.draw 9
    key := freeReg s.draw 12
    cand := Config.freeCand s.draw
    hops := freeReg s.draw 13
    curLen := freeReg s.draw 14
    bestLen := freeReg s.draw 15
    bestOff := freeReg s.draw 16
    draw := s.draw + 1 }

/-- Everything an operation works on but SRC becomes unspecified: all registers but `op`, `status` and `err`, both
tables and DST (60 R197, 92 D19; 10 R20, R39). SRC is never written (10 R41), and `HDR_EXT_LEN` is a parameter of
the machine (00 R6). -/
def discardWork (s : State) : State :=
  { s with
    srcLen := freeReg s.draw 0
    windowBits := freeReg s.draw 1
    maxHops := freeReg s.draw 2
    ip := freeReg s.draw 3
    wp := freeReg s.draw 4
    size := freeReg s.draw 5
    hlen := freeReg s.draw 6
    dstate := freeDState s.draw
    b0 := Config.freeByte s.draw 0
    b1 := Config.freeByte s.draw 1
    b2 := Config.freeByte s.draw 2
    b3 := Config.freeByte s.draw 3
    lit := freeReg s.draw 9
    mlen := freeReg s.draw 10
    off := freeReg s.draw 11
    scan := freeReg s.draw 17
    flushed := freeReg s.draw 18
    dlen := freeReg s.draw 19
    key := freeReg s.draw 12
    cand := Config.freeCand s.draw
    hops := freeReg s.draw 13
    curLen := freeReg s.draw 14
    bestLen := freeReg s.draw 15
    bestOff := freeReg s.draw 16
    head := headOfEntries (Config.freeHead s.draw)
    prev := []
    prevInit := s.draw
    dst := Memory.ofCells (Config.freeDst s.draw)
    draw := s.draw + 1 }

/-! ## The ends of an operation -/

/-- `raise E`: the one exception of the block (60 R197). The operation ends, `status` and `err` say how, everything
else it worked on is unspecified. No register saves anything and no handler runs. -/
def raise (e : Failure) (s : State) : State :=
  { discardWork s with op := .idle, status := .failed, err := some e }

/-- Success (60 R198). There is no return from a failure (60 R200): beside this end and `raise`, only a new start
command leaves an ended operation. -/
def complete (s : State) : State :=
  { s with op := .idle, status := .done, err := none }

/-- An operation's pseudocode run to its end or to its `raise`. Everything is discarded on a failure, so the state
the failing check saw is not kept (60 R197). -/
def settle (s : State) : Except Failure State → Host.Outcome State Fault Refusal
  | .ok t => .next t
  | .error e => .next (raise e s)

/-- The result of a successful COMPRESS, `DST[0 .. dlen-1]` (60 R198). -/
def compressed (s : State) : List Byte := Memory.slice s.dst 0 s.dlen

/-- The result of a successful DECOMPRESS, `DST[0 .. size-1]` (60 R198). -/
def decompressed (s : State) : List Byte := Memory.slice s.dst 0 s.size

/-! ## The start of an operation -/

/-- SRC as the start command gives it: its cells below `srcLen`, in canonical form (10 R33; log 19). -/
def inputMemory (c : StartCmd) : Memory :=
  Memory.ofCells (c.src.filter fun x => decide (x.1 < c.srcLen))

/-- A parameter given or its default (00 R6). -/
def paramOr (p : Option Int) (default : Nat) : Nat := (p.map Int.toNat).getD default

/-- The state at the start of an operation (10 R39): what the host gives, `status` busy, and everything the spec
calls unspecified or not used a free value. -/
def latch (c : StartCmd) (s : State) : State :=
  let t : State :=
    { discardWork s with
      status := .busy, err := none, srcLen := c.srcLen, src := inputMemory c, dst := [], port := none }
  match c.job with
  | .compress wb mh =>
    { t with
      op := .compress
      windowBits := paramOr wb Config.windowBitsDefault
      maxHops := paramOr mh Config.maxHopsDefault
      scan := 0
      flushed := 0
      dlen := 0
      head := [] }
  | .decompress => { t with op := .decompress, wp := 0, dstate := .running }

end Sys2Proof.Machine
end

