-- ==== Sys2Proof/Machine/Operands.lean ====
section
/-! DEFINITION. The decoder's operands: bytes fetched from SRC (43 R161), literal copies (43 R173) and back-references
into DST (43 R174), with the checks that raise Corrupt (43 R175, R176). -/

namespace Sys2Proof.Machine

/-- `PEEK()` (43 R161). -/
def peek (s : State) : Except Failure Byte :=
  if s.ip ≥ s.srcLen then .error .corrupt else .ok (Memory.read s.src s.ip)

/-- `FETCH()` (43 R161). -/
def fetch (s : State) : Except Failure (Byte × State) :=
  match peek s with
  | .error e => .error e
  | .ok v => .ok (v, { s with ip := s.ip + 1 })

/-- The checked write of one output byte: `wp ≥ size` raises Corrupt and writes nothing (43 R176). -/
def putByte (v : Byte) (s : State) : Except Failure State :=
  if s.wp ≥ s.size then .error .corrupt
  else .ok { s with dst := Memory.write s.dst s.wp v, wp := s.wp + 1 }

/-- `LITCOPY(k)` (43 R173). -/
def litCopy : Nat → State → Except Failure State
  | 0, s => .ok s
  | k + 1, s =>
    match fetch s with
    | .error e => .error e
    | .ok (v, t) =>
      match putByte v t with
      | .error e => .error e
      | .ok u => litCopy k u

/-- The loop of `BACKCOPY`: one byte at a time, the read index `off` behind the moving `wp` (43 R174, 20 R60). -/
def backLoop (off : Nat) : Nat → State → Except Failure State
  | 0, s => .ok s
  | k + 1, s =>
    match putByte (Memory.read s.dst (s.wp - off)) s with
    | .error e => .error e
    | .ok t => backLoop off k t

/-- `BACKCOPY(len, off)` (43 R174, R175). -/
def backCopy (len off : Nat) (s : State) : Except Failure State :=
  if off > s.wp then .error .corrupt else backLoop off len s

end Sys2Proof.Machine
end

