-- ==== Sys2Proof/Machine/LiteralTokens.lean ====
section
/-! DEFINITION. RawRun (43 R169) and Terminal (43 R170). -/

namespace Sys2Proof.Machine

/-- RawRun (43 R169): its control byte has been fetched. -/
def execRawRun (len : Nat) (s : State) : Host.Outcome State Fault Refusal :=
  settle s (litCopy len { s with lit := len })

/-- The Terminal's literals, read only while the output is not full; `ip` is on its control byte (43 R170, R180). -/
def readTerminal (lit : Nat) (s : State) : Except Failure State :=
  if s.wp < s.size then litCopy lit { s with ip := s.ip + 1, lit := lit } else .ok s

/-- Terminal (43 R170). -/
def execTerminal (lit : Nat) (s : State) : Host.Outcome State Fault Refusal :=
  settle s ((readTerminal lit (exitLoop s)).map markDone)

end Sys2Proof.Machine
end

