-- ==== Sys2Proof/Machine/MatchTokens.lean ====
section
/-! DEFINITION. The three match tokens (43 R166 to R168). Their control bytes have been fetched when a meaning runs:
`ip` is on the first literal byte (43 R177 order, step 1). -/

namespace Sys2Proof.Machine

/-- Steps 2 to 4 of a match token: fields, literal copy, back-copy (43 R177). -/
def copyMatch (lit mlen off : Nat) (s : State) : Except Failure State :=
  match litCopy lit { s with lit := lit, mlen := mlen, off := off } with
  | .error e => .error e
  | .ok t => backCopy mlen off t

/-- ShortMatch (43 R166). -/
def execShortMatch (lit mlen off : Nat) (s : State) : Host.Outcome State Fault Refusal :=
  settle s (copyMatch lit mlen off s)

/-- MediumMatch (43 R167). -/
def execMediumMatch (lit mlen off : Nat) (s : State) : Host.Outcome State Fault Refusal :=
  settle s (copyMatch lit mlen off s)

/-- LongMatch (43 R168). -/
def execLongMatch (lit mlen off : Nat) (s : State) : Host.Outcome State Fault Refusal :=
  settle s (copyMatch lit mlen off s)

end Sys2Proof.Machine
end

