-- ==== Sys2Proof/Machine/Dispatch.lean ====
section
/-! DEFINITION. One arm per token (43 R165). -/

namespace Sys2Proof.Machine

def exec (i : Instr) (s : State) : Host.Outcome State Fault Refusal :=
  match i with
  | .shortMatch lit mlen off => Sys2Proof.Machine.execShortMatch lit mlen off s
  | .mediumMatch lit mlen off => Sys2Proof.Machine.execMediumMatch lit mlen off s
  | .longMatch lit mlen off => Sys2Proof.Machine.execLongMatch lit mlen off s
  | .rawRun len => Sys2Proof.Machine.execRawRun len s
  | .terminal lit => Sys2Proof.Machine.execTerminal lit s

end Sys2Proof.Machine
end

