-- ==== Sys2Proof/Machine/Decoder.lean ====
section
/-! DEFINITION. The Token Decoder: DECOMPRESS after its header (43 R161 to R184). -/

namespace Sys2Proof.Machine

/-- The stream bytes the next token's control bytes are read from: at most 4, none at or past `srcLen` (43 R161). -/
def controlWindow (s : State) : List Byte := Memory.slice s.src s.ip (min 4 (s.srcLen - s.ip))

/-- The byte of SRC `k` places after `ip`. -/
def controlByte (s : State) (k : Nat) : Byte := Memory.read s.src (s.ip + k)

/-- The control bytes of the token fetched: `b0` to `b3` as the kind has them, `ip` past them. A Terminal's `byte0` is
only peeked at and ends the loop (43 R165 to R170). -/
def fetched (k : Kind) (s : State) : State :=
  match k with
  | .shortMatch => { s with b0 := controlByte s 0, b1 := controlByte s 1, ip := s.ip + 2 }
  | .mediumMatch =>
    { s with b0 := controlByte s 0, b1 := controlByte s 1, b2 := controlByte s 2, ip := s.ip + 3 }
  | .longMatch =>
    { s with
      b0 := controlByte s 0, b1 := controlByte s 1, b2 := controlByte s 2, b3 := controlByte s 3, ip := s.ip + 4 }
  | .rawRun => { s with b0 := controlByte s 0, ip := s.ip + 1 }
  | .terminal => exitLoop { s with b0 := controlByte s 0 }

/-- The end of a token: its temporaries become unspecified while the operation goes on (10 R29); a failed
operation has nothing left to discard. -/
def endToken : Host.Outcome State Fault Refusal → Host.Outcome State Fault Refusal
  | .next t => .next (if t.op = .decompress then dropTokenTemps t else t)
  | .fault f => .fault f
  | .refused r => .refused r

/-- One pass of the decoder's loop, or its exit with the Terminal step (43 R165, R170, 70 R240). Missing control bytes
are a read past the input: Corrupt (43 R161, R178). -/
def tokenStep (s : State) : Host.Outcome State Fault Refusal :=
  match decode (controlWindow s) with
  | .error _ => .next (raise .corrupt s)
  | .ok (i, _) => endToken (exec i (fetched i.kind s))

/-- FINAL CHECK (43 R172). -/
def finalCheck (s : State) : Host.Outcome State Fault Refusal :=
  if s.wp = s.size then .next (complete s) else .next (raise .corrupt s)

/-- One step of DECOMPRESS (70 R240). `terminalRead` is passed through inside the Terminal step and stands here for a
state given with its `byte0` in `b0` (43 R170; log 18). -/
def decompressStep (s : State) : Host.Outcome State Fault Refusal :=
  match s.dstate with
  | .running => tokenStep s
  | .terminalRead => endToken (exec (unpackTerminal s.b0) s)
  | .done => finalCheck s

end Sys2Proof.Machine
end

