-- ==== Sys2Proof/Machine/Finder.lean ====
section
/-! DEFINITION. The Match Finder (41 R110 to R124). -/

namespace Sys2Proof.Machine

/-- The key of the 2-byte prefix at `p` (20 R53, 41 R111). -/
def keyAt (src : Memory) (p : Nat) : Nat := (Memory.read src p).toNat * 256 + (Memory.read src (p + 1)).toNat

/-- KEY (41 R111). -/
def computeKey (s : State) : State := { s with key := keyAt s.src s.scan }

/-- INSERT (41 R112), in exactly this order (70 R231): read HEAD, link PREV, update HEAD. -/
def insertPosition (s : State) : State :=
  let t : State := { s with cand := headRead s s.key }
  headWrite t.key t.scan (prevWrite (t.scan % window t) t.cand t)

/-- PREFIXLEN (41 R115): the largest `k ≤ cap` such that `k` bytes from `p` equal `k` bytes from `c`. -/
def prefixLen (src : Memory) : Nat → Nat → Nat → Nat
  | _, _, 0 => 0
  | p, c, cap + 1 =>
    if Memory.read src c = Memory.read src p then prefixLen src (p + 1) (c + 1) cap + 1 else 0

/-- The cap on the common-prefix length at `scan` (41 R116). -/
def matchCap (s : State) : Nat := min Config.maxMatch (s.srcLen - s.scan)

/-- The window test (41 R114). A candidate is an earlier position (41 R120); one that is not, which no reachable
state holds, ends the walk (log 14). -/
def inWindow (s : State) (c : Nat) : Bool := decide (c < s.scan) && decide (s.scan - c < window s)

/-- The best update: only a strictly longer prefix replaces the best (41 R117). -/
def updateBest (c : Nat) (s : State) : State :=
  if s.curLen > s.bestLen then { s with bestLen := s.curLen, bestOff := s.scan - c } else s

/-- One pass of the walk on candidate `c`: count the hop, measure, update the best, follow the link (41 R113). -/
def examine (c : Nat) (s : State) : State :=
  let t := updateBest c { s with
    hops := s.hops + 1
    curLen := prefixLen s.src s.scan c (matchCap s) }
  { t with cand := prevRead t (c % window t) }

/-- The loop of SEARCH (41 R113). The first argument bounds the recursion; the conditions are tested in the order
written, before each candidate. -/
def walk : Nat → State → State
  | 0, s => s
  | fuel + 1, s =>
    match s.cand with
    | none => s
    | some c => if inWindow s c && decide (s.hops < s.maxHops) then walk fuel (examine c s) else s

/-- SEARCH (41 R113), from the `cand` left by the insertion; at most `MAX_HOPS` passes. -/
def search (s : State) : State := walk s.maxHops { s with bestLen := 0, hops := 0 }

/-- The finder's step at `scan` (41 R124): insertion always, search when wanted; without a search the result is
`bestLen = 0`. -/
def finderStep (wantSearch : Bool) (s : State) : State :=
  let t := insertPosition (computeKey s)
  if wantSearch then search t else { t with bestLen := 0 }

end Sys2Proof.Machine
end

