-- ==== Sys2Proof/Machine/Header.lean ====
section
/-! DEFINITION. The Header Codec (40 R100 to R103). -/

namespace Sys2Proof.Machine

/-- The five bytes of the normal header (30 R71, 40 R100). -/
def headerBytes (n : Nat) : List Byte :=
  [byte Config.magic0, byte Config.magic1, byte ((n >>> 16) &&& 0xFF), byte ((n >>> 8) &&& 0xFF), byte (n &&& 0xFF)]

/-- `writeHeader` (40 R100). -/
def writeHeader (n : Nat) (s : State) : Except Failure State :=
  if n > Config.sizeMax then .error .inputTooLarge else .ok (appendAll (headerBytes n) s)

/-- The magic pair of the two forms (40 R102). -/
def magicOk (s : State) : Bool :=
  ((Memory.read s.src 0).toNat == Config.magic0 || (Memory.read s.src 0).toNat == Config.magic0Ext) &&
    (Memory.read s.src 1).toNat == Config.magic1

/-- `HDR_EXT_LEN` in bytes (00 R6, 92 D17). -/
def extLength : HdrExtLen → Nat
  | .nine => 9
  | .eight => 8

/-- Header length by the low bit of byte 0 (40 R103); `ext` is `HDR_EXT_LEN` (00 R6). -/
def headerLength (ext : Nat) (s : State) : Nat :=
  if (Memory.read s.src 0).toNat &&& 1 = 0 then Config.hdrLen else ext

/-- The size field, big-endian (20 R51, 40 R103). -/
def headerSize (s : State) : Nat :=
  (Memory.read s.src 2).toNat * 65536 + (Memory.read s.src 3).toNat * 256 + (Memory.read s.src 4).toNat

/-- `readHeader` (40 R102, R103). -/
def readHeader (ext : Nat) (s : State) : Except Failure State :=
  if s.srcLen < 2 then .error .invalidMagic
  else if !magicOk s then .error .invalidMagic
  else if s.srcLen < headerLength ext s then .error .corrupt
  else .ok { s with
    hlen := headerLength ext s
    size := headerSize s
    ip := headerLength ext s
    wp := 0
    dstate := .running }

/-- START of DECOMPRESS, the header step, with the machine's `HDR_EXT_LEN` (43 R160). -/
def startDecompress (s : State) : Host.Outcome State Fault Refusal :=
  settle s (readHeader (extLength s.hdrExtLen) s)

end Sys2Proof.Machine
end

