-- ==== Sys2Proof/Machine/Encoder.lean ====
section
/-! DEFINITION. The Token Encoder: COMPRESS (42 R130 to R147). -/

namespace Sys2Proof.Machine

/-- The acceptance policy (42 R135). -/
def accept (len off : Nat) : Bool :=
  if len ≤ 2 then false
  else if len == 3 && decide (off > 1024) then false
  else if len == 4 && decide (off > 16384) then false
  else true

/-- SELECT (42 R140): the smallest shape that fits, or none (42 R151); `W` is the window size. -/
def select (W lit len off : Nat) : Option Instr :=
  if len ≤ 10 ∧ off ≤ 1024 then some (.shortMatch lit len off)
  else if len ≤ 67 ∧ off ≤ 16384 then some (.mediumMatch lit len off)
  else if len ≤ 1028 ∧ off < W then some (.longMatch lit len off)
  else none

/-- The length of the next RawRun of a flush: the largest multiple of 4 in the gap, at most 112 (42 R138). -/
def rawRunLength (gap : Nat) : Nat := min (4 * (gap / 4)) Config.rawMax

/-- A token and its literal bytes, taken from SRC at `flushed`, appended (42 R137, R138, R144, R146). -/
def emit (i : Instr) (s : State) : State :=
  appendAll (encode i ++ Memory.slice s.src s.flushed i.literals) s

/-- One RawRun of a flush (42 R138). -/
def flushRun (len : Nat) (s : State) : State :=
  let t := emit (.rawRun len) s
  { t with flushed := t.flushed + len }

/-- The loop of FLUSH (42 R138); the first argument bounds the recursion, every pass moves `flushed` by 4 or more. -/
def flushLoop : Nat → Nat → State → State
  | 0, _, s => s
  | fuel + 1, upto, s =>
    if upto - s.flushed ≥ 4 then flushLoop fuel upto (flushRun (rawRunLength (upto - s.flushed)) s) else s

/-- FLUSH (42 R138): RawRuns for the gap, its remainder of 0 to 3 bytes in `lit`. -/
def flush (upto : Nat) (s : State) : State :=
  let t := flushLoop (upto - s.flushed) upto s
  { t with lit := upto - t.flushed }

/-- EMIT_MATCH (42 R137) for the best match at `scan`. -/
def emitMatch (s : State) : Host.Outcome State Fault Refusal :=
  let t := flush s.scan s
  match select (window t) t.lit t.bestLen t.bestOff with
  | none => .fault .noShapeFits
  | some i =>
    let u := emit i t
    .next { u with flushed := u.flushed + u.lit + u.bestLen }

/-- CLAMP (42 R134). -/
def clamp (s : State) : State := { s with bestLen := min s.bestLen (s.srcLen - s.scan) }

/-- The body of the main loop before `scan` moves (42 R131 to R136). -/
def scanBody (s : State) : Host.Outcome State Fault Refusal :=
  if s.scan + 1 < s.srcLen then
    let t := finderStep (decide (s.scan ≥ s.flushed)) s
    if t.scan ≥ t.flushed then
      let u := clamp t
      if accept u.bestLen u.bestOff then emitMatch u else .next u
    else .next t
  else .next s

/-- The end of one position: `scan` moves by 1 and the position's temporaries become unspecified (42 R131, 93 U6). -/
def endPosition (s : State) : State := dropFinderTemps { s with scan := s.scan + 1 }

/-- FINAL FLUSH and EMIT Terminal (42 R145, R146). -/
def finishStream (s : State) : State :=
  let t := flush s.srcLen s
  let u := emit (.terminal t.lit) t
  { u with flushed := u.flushed + u.lit }

/-- One step of COMPRESS (70 R240): one position, or the end step (42 R145 to R147). -/
def compressStep (s : State) : Host.Outcome State Fault Refusal :=
  if s.scan < s.srcLen then
    match scanBody s with
    | .next t => .next (endPosition t)
    | .fault f => .fault f
    | .refused r => .refused r
  else .next (complete (dropFinderTemps (finishStream s)))

/-- START of COMPRESS (42 R130): the size check comes before any work. -/
def startCompress (s : State) : Host.Outcome State Fault Refusal :=
  settle s (writeHeader s.srcLen { s with head := [], dlen := 0, scan := 0, flushed := 0 })

end Sys2Proof.Machine
end

