-- ==== Sys2Proof/Machine/HostPort.lean ====
section
/-! DEFINITION. The host's side: the start command (70 R225), and the acts the block refuses (70 R227, 60 R212). -/

namespace Sys2Proof.Machine

/-- `WINDOW_BITS` not given or in 0 to 17 (00 R6, 60 R212). -/
def windowBitsOk (p : Option Int) : Bool :=
  match p with
  | none => true
  | some b => decide (0 ≤ b) && decide (b ≤ Config.windowBitsMax)

/-- `MAX_HOPS` not given or a natural (00 R6, 60 R212). -/
def maxHopsOk (p : Option Int) : Bool :=
  match p with
  | none => true
  | some h => decide (0 ≤ h)

/-- Why a start command is outside the block's contract, if it is (60 R212). -/
def startRefusal (c : StartCmd) : Option Refusal :=
  if c.srcLen ≥ Config.srcLenLimit then some .srcLenTooLarge
  else if !c.disjoint then some .buffersOverlap
  else
    match c.job with
    | .compress wb mh =>
      if !windowBitsOk wb then some .windowBitsOutOfRange
      else if !maxHopsOk mh then some .maxHopsNegative
      else none
    | .decompress => none

/-- A start command taken by an idle block: the operation's fresh state, then its start step (70 R221, R225, R240). -/
def startOperation (c : StartCmd) (s : State) : Host.Outcome State Fault Refusal :=
  match startRefusal c with
  | some r => .refused r
  | none =>
    match c.job with
    | .compress _ _ => startCompress (latch c s)
    | .decompress => startDecompress (latch c s)

/-- The host's pending act. While an operation runs every act is refused: that the host makes no move then is an
assumption a claim inherits, and a real host may break it (70 R227, 92 D26; log 21). An idle block takes a start
command, and leaves SRC and DST to the host (20 R50). -/
def hostStep (a : HostAct) (s : State) : Host.Outcome State Fault Refusal :=
  match a with
  | .start c => if s.busy then .refused .startWhileBusy else startOperation c s
  | .access sp =>
    if s.busy then .refused .accessWhileBusy
    else
      match sp with
      | .src => .next { s with port := none }
      | .dst => .next { s with port := none }
      | .head => .refused .tablesHidden
      | .prev => .refused .tablesHidden
  | .cancel => .refused .cancelUnsupported

end Sys2Proof.Machine
end

