-- ==== Sys2Proof/Machine/Step.lean ====
section
/-! DEFINITION. One step of the block (70 R240), and placing a token where the next step fetches it. -/

namespace Sys2Proof.Machine

/-- One step: the host's pending act if there is one, else one step of the running operation. An idle block without
a command stays as it is (60 R211). -/
def step (s : State) : Host.Outcome State Fault Refusal :=
  match s.port with
  | some a => hostStep a s
  | none =>
    match s.op with
    | .idle => .next s
    | .compress => compressStep s
    | .decompress => decompressStep s

/-- A state in which the decoder's next step fetches a token: `s` itself if it is one, else a DECOMPRESS just past a
normal header that declares the largest size (log 11). -/
def readyToFetch (s : State) : State :=
  if s.port = none ∧ s.op = .decompress ∧ s.dstate = .running then s
  else
    { s with
      port := none
      op := .decompress
      status := .busy
      err := none
      dstate := .running
      src := Memory.writeBytes [] 0 (headerBytes Config.sizeMax)
      srcLen := Config.hdrLen
      hlen := Config.hdrLen
      ip := Config.hdrLen
      size := Config.sizeMax
      wp := 0
      dst := [] }

/-- The token of a table word, and zeros up to the longest token, stored at `ip` of SRC. -/
def State.withFetchWord (s : State) (nbits w : Nat) : State :=
  let t := readyToFetch s
  { t with
    src := Memory.writeBytes (Memory.clear t.src t.ip longestToken) t.ip (tableBytes nbits w)
    srcLen := max t.srcLen (t.ip + longestToken) }

end Sys2Proof.Machine
end

