-- ==== Sys2Proof/Machine/Reference.lean ====
section
/-! DEFINITION. The forms the spec gives beside the machine, on plain byte lists: DECOMPRESS as one function (43 R181), the
finder without tables (41 R124), COMPRESS as one function (42 R148), and the pseudo-instructions (30 R88). The machine
does not use them; statements compare it with them. -/

namespace Sys2Proof.Machine

/-! ## DECOMPRESS as one function (43 R181) -/

/-- `LITCOPY` on lists: moves `k` bytes from the stream to the output (43 R173). -/
def Ref.literals (size : Nat) : Nat → List Byte → List Byte → Except Failure (List Byte × List Byte)
  | 0, inp, out => .ok (inp, out)
  | _ + 1, [], _ => .error .corrupt
  | k + 1, v :: inp, out =>
    if out.length ≥ size then .error .corrupt else Ref.literals size k inp (out ++ [v])

/-- The loop of `BACKCOPY` on lists (43 R174). -/
def Ref.backLoop (size off : Nat) : Nat → List Byte → Except Failure (List Byte)
  | 0, out => .ok out
  | k + 1, out =>
    if out.length ≥ size then .error .corrupt
    else Ref.backLoop size off k (out ++ [out.getD (out.length - off) 0])

/-- `BACKCOPY` on lists (43 R174, R175). -/
def Ref.backCopy (size len off : Nat) (out : List Byte) : Except Failure (List Byte) :=
  if off > out.length then .error .corrupt else Ref.backLoop size off len out

/-- A match token on lists (43 R177). -/
def Ref.copyMatch (size lit len off : Nat) (inp out : List Byte) : Except Failure (List Byte × List Byte) :=
  match Ref.literals size lit inp out with
  | .error e => .error e
  | .ok (inp', out') => (Ref.backCopy size len off out').map fun o => (inp', o)

/-- One token of the loop, after its control bytes (43 R166 to R169); a Terminal is not executed by the loop. -/
def Ref.token (size : Nat) (i : Instr) (inp out : List Byte) : Except Failure (List Byte × List Byte) :=
  match i with
  | .shortMatch lit len off => Ref.copyMatch size lit len off inp out
  | .mediumMatch lit len off => Ref.copyMatch size lit len off inp out
  | .longMatch lit len off => Ref.copyMatch size lit len off inp out
  | .rawRun len => Ref.literals size len inp out
  | .terminal _ => .ok (inp, out)

/-- The Terminal step and the final check (43 R170, R172). -/
def Ref.finish (size lit : Nat) (inp out : List Byte) : Except Failure (List Byte) :=
  match (if out.length < size then Ref.literals size lit inp out else .ok (inp, out)) with
  | .error e => .error e
  | .ok (_, out') => if out'.length = size then .ok out' else .error .corrupt

/-- The token loop on the rest of the stream and the output so far; every pass takes at least one byte, so the first
argument, the length of the stream, is enough (43 R183). -/
def Ref.loop (size : Nat) : Nat → List Byte → List Byte → Except Failure (List Byte)
  | 0, _, _ => .error .corrupt
  | fuel + 1, inp, out =>
    match decode inp with
    | .error _ => .error .corrupt
    | .ok (.terminal lit, rest) => Ref.finish size lit rest out
    | .ok (i, rest) =>
      match Ref.token size i rest out with
      | .error e => .error e
      | .ok (inp', out') => Ref.loop size fuel inp' out'

/-- The token stream after the header. -/
def Ref.tokens (size : Nat) (inp : List Byte) : Except Failure (List Byte) :=
  Ref.loop size (inp.length + 1) inp []

/-- DECOMPRESS as one function (43 R181); `ext` is `HDR_EXT_LEN`. -/
def Ref.decompress (ext : Nat) (bs : List Byte) : Except Failure (List Byte) :=
  let at_ := fun k => (bs.getD k 0).toNat
  if bs.length < 2 ∨ ¬((at_ 0 = 0x10 ∨ at_ 0 = 0x11) ∧ at_ 1 = 0xFB) then .error .invalidMagic
  else
    let hlen := if at_ 0 % 2 = 0 then 5 else ext
    if bs.length < hlen then .error .corrupt
    else Ref.tokens (at_ 2 * 65536 + at_ 3 * 256 + at_ 4) (bs.drop hlen)

/-! ## The finder without tables (41 R124) -/

/-- `C(p)`: earlier positions with the same first two bytes, newest first (41 R124). -/
def Ref.occurrences (src : Memory) (p : Nat) : List Nat :=
  (List.range p).reverse.filter fun c => keyAt src c = keyAt src p

/-- The candidates examined: `C(p)` cut at the first one outside the window, then at `MAX_HOPS` (41 R124). -/
def Ref.candidates (src : Memory) (W maxHops p : Nat) : List Nat :=
  ((Ref.occurrences src p).takeWhile fun c => decide (p - c < W)).take maxHops

/-- The longest common prefix among candidates and its distance, the first on ties; length 0 if there is none
(41 R117, R124). -/
def Ref.best (src : Memory) (p cap : Nat) (cands : List Nat) : Nat × Nat :=
  cands.foldl
    (fun b c => if prefixLen src p c cap > b.1 then (prefixLen src p c cap, p - c) else b) (0, 0)

/-- The finder at `p` of `n` bytes (41 R124). -/
def Ref.find (src : Memory) (n W maxHops p : Nat) : Nat × Nat :=
  Ref.best src p (min 1028 (n - p)) (Ref.candidates src W maxHops p)

/-- The newest position below `p` with key `k`: what HEAD and PREV record (10 R31, R32). -/
def Ref.lastBefore (src : Memory) (k : Nat) : Nat → Option Nat
  | 0 => none
  | p + 1 => if keyAt src p = k then some p else Ref.lastBefore src k p

/-! ## COMPRESS as one function (42 R148) -/

/-- The pseudo-instruction `Flush` (30 R88): the lengths of the RawRuns that cover a gap; the rest, 0 to 3 bytes, is
carried by the next token. The first argument bounds the recursion. -/
def Ref.flushLengths : Nat → Nat → List Nat
  | 0, _ => []
  | fuel + 1, gap =>
    if gap ≥ 4 then rawRunLength gap :: Ref.flushLengths fuel (gap - rawRunLength gap) else []

/-- The bytes of RawRuns of the given lengths, their literals taken from SRC at `from_` on. -/
def Ref.runBytes (src : Memory) : Nat → List Nat → List Byte
  | _, [] => []
  | from_, len :: ls =>
    encode (.rawRun len) ++ Memory.slice src from_ len ++ Ref.runBytes src (from_ + len) ls

/-- A flush of the gap from `from_` to `upto` (42 R138): its RawRuns. -/
def Ref.flushBytes (src : Memory) (from_ upto : Nat) : List Byte :=
  Ref.runBytes src from_ (Ref.flushLengths (upto - from_) (upto - from_))

/-- The pseudo-instruction `Match` (30 R88): the smallest shape that fits (42 R140), with the largest window. -/
def Ref.matchToken (lit len off : Nat) : Option Instr := select (2 ^ Config.windowBitsMax) lit len off

/-- The bytes of an accepted match `(len, off)` at `p` with the gap from `flushed` on (42 R137): RawRuns, control
bytes, literal bytes. -/
def Ref.matchBytes (src : Memory) (W flushed p len off : Nat) : List Byte :=
  let lit := (p - flushed) % 4
  Ref.flushBytes src flushed p ++
    (match select W lit len off with
      | some i => encode i
      | none => []) ++
    Memory.slice src (p - lit) lit

/-- One position of the main loop: the new `flushed` and the bytes appended (42 R148). -/
def Ref.position (src : Memory) (n W maxHops p flushed : Nat) : Nat × List Byte :=
  if p + 1 < n ∧ p ≥ flushed then
    let (len, off) := Ref.find src n W maxHops p
    if len ≥ 5 ∨ (len = 4 ∧ off ≤ 16384) ∨ (len = 3 ∧ off ≤ 1024) then
      (p + len, Ref.matchBytes src W flushed p len off)
    else (flushed, [])
  else (flushed, [])

/-- The main loop from position `p` on; the first argument is the number of positions left (42 R148). -/
def Ref.scanLoop (src : Memory) (n W maxHops : Nat) : Nat → Nat → Nat → Nat × List Byte
  | 0, _, flushed => (flushed, [])
  | k + 1, p, flushed =>
    let (f, bytes) := Ref.position src n W maxHops p flushed
    let (f', more) := Ref.scanLoop src n W maxHops k (p + 1) f
    (f', bytes ++ more)

/-- The final flush and the Terminal token (42 R145, R146). -/
def Ref.tail (src : Memory) (n flushed : Nat) : List Byte :=
  let lit := (n - flushed) % 4
  Ref.flushBytes src flushed n ++ encode (.terminal lit) ++ Memory.slice src (n - lit) lit

/-- COMPRESS as one function, for an input of at most `SIZE_MAX` bytes (42 R148). -/
def Ref.compress (src : Memory) (n windowBits maxHops : Nat) : List Byte :=
  let (flushed, bytes) := Ref.scanLoop src n (2 ^ windowBits) maxHops n 0 0
  headerBytes n ++ bytes ++ Ref.tail src n flushed

/-! ## Buffers as lists -/

/-- The cells of a buffer given as a list. -/
def Ref.cells (bs : List Byte) : List Host.Cell := bs.zipIdx.map fun x => (x.2, x.1)

/-- The start command of `decompress(bytes)` (70 R225). -/
def Ref.decompressCmd (bs : List Byte) : StartCmd := ⟨.decompress, Ref.cells bs, bs.length, true⟩

/-- The start command of `compress(bytes, options)` (70 R225). -/
def Ref.compressCmd (bs : List Byte) (windowBits maxHops : Option Int) : StartCmd :=
  ⟨.compress windowBits maxHops, Ref.cells bs, bs.length, true⟩

end Sys2Proof.Machine
end

