-- ==== Sys2Proof/Safety.lean ====
section
/-! DEFINITION. What holds of every state a run reaches (10 R24, R26 to R32, 42 R149, R152, 43 R163), and the host's start
of an operation as a state. -/

namespace Sys2Proof.Machine

/-- The two byte spaces are in canonical form and the two tables list rising indices, HEAD only keys (10 R31). -/
structure SpacesOk (s : State) : Prop where
  src : Memory.wf s.src
  dst : Memory.wf s.dst
  head : Sparse.Rising s.head
  prev : Sparse.Rising s.prev
  keys : ∀ e ∈ s.head, e.1 < Config.keyCount

/-- `status` is busy exactly while an operation runs, and `err` names a failure exactly when `status` is failed
(10 R23, R24; 60 R197, R198). -/
structure FlagsOk (s : State) : Prop where
  busy : s.status = .busy ↔ s.op ≠ .idle
  err : s.err ≠ none ↔ s.status = .failed

/-- SRC while an operation runs (10 R25, R33; 60 R212). -/
structure InputOk (s : State) : Prop where
  len : s.srcLen < Config.srcLenLimit
  cells : ∀ c ∈ s.src, c.1 < s.srcLen

/-- The decoder's registers between two tokens (10 R26 to R28, 43 R163). -/
structure DecoderOk (s : State) : Prop where
  wp : s.wp ≤ s.size
  size : s.size ≤ Config.sizeMax
  hlen : s.hlen = Config.hdrLen ∨ s.hlen = extLength s.hdrExtLen
  start : s.hlen ≤ s.ip
  ip : s.ip ≤ s.srcLen
  written : ∀ c ∈ s.dst, c.1 < s.wp
  dstate : s.dstate ≠ .terminalRead

/-- The encoder's registers between two positions (10 R30, 42 R149 a, R152). -/
structure EncoderOk (s : State) : Prop where
  len : s.srcLen ≤ Config.sizeMax
  bits : s.windowBits ≤ Config.windowBitsMax
  scan : s.scan ≤ s.srcLen
  flushed : s.flushed ≤ s.srcLen
  ahead : s.flushed ≤ s.scan + Config.maxMatch
  header : Config.hdrLen ≤ s.dlen
  bound : s.dlen ≤ Config.hdrLen + s.flushed + s.flushed / Config.rawMax
  appended : ∀ c ∈ s.dst, c.1 < s.dlen
  links : ∀ e ∈ s.prev, e.1 < window s

/-- The invariant of the machine. -/
structure Inv (s : State) : Prop where
  spaces : SpacesOk s
  flags : FlagsOk s
  input : s.op ≠ .idle → InputOk s
  decoder : s.op = .decompress → DecoderOk s
  encoder : s.op = .compress → EncoderOk s

/-- How many positions have been inserted when the loop is at `scan`: all below it but the last byte's
(41 R110). -/
def inserted (s : State) : Nat := min s.scan (s.srcLen - 1)

/-- The chain invariant (10 R31, R32; 41 R120, R121): HEAD holds the newest inserted position of every key, and PREV,
for every inserted position whose entry has not been overwritten, the newest earlier position with its key. -/
structure ChainsOk (s : State) : Prop where
  head : ∀ k, headRead s k = Ref.lastBefore s.src k (inserted s)
  prev : ∀ q, q < inserted s → inserted s ≤ q + window s →
    Sparse.look s.prev (q % window s) = some (Ref.lastBefore s.src (keyAt s.src q) q)

/-- The tokens appended so far decode to the first `flushed` bytes of the input and leave the decoder at whatever
follows them, for every declared size with room for those bytes (42 R149 b, in the form that a further token keeps:
the rule's own case is a Terminal with no literal as what follows, and `flushed` as the size). -/
def PrefixDecodes (s : State) : Prop :=
  ∀ (size : Nat) (after : List Byte), s.flushed ≤ size →
    Ref.tokens size (Memory.slice s.dst Config.hdrLen (s.dlen - Config.hdrLen) ++ after) =
      Ref.loop size (after.length + 1) after (Memory.slice s.src 0 s.flushed)

/-! ## Words the statements use -/

/-- An idle block given a start command (70 R225). -/
def started (s : State) (c : StartCmd) : State := { s with port := some (.start c) }

/-- The decoder is about to fetch a token (43 R165). -/
def Fetching (s : State) : Prop := s.port = none ∧ s.op = .decompress ∧ s.dstate = .running

/-- The encoder is about to evaluate a position or to end the stream (42 R131). -/
def Encoding (s : State) : Prop := s.port = none ∧ s.op = .compress

/-- Some number of steps leads from `s` to `t`. -/
def Reaches (s t : State) : Prop := ∃ k, Sys2Proof.core.run k s = .next t

/-- The value of the byte of SRC `k` places after `ip`. -/
def streamByte (s : State) (k : Nat) : Nat := (Memory.read s.src (s.ip + k)).toNat

/-- `k` literal bytes that follow `c` control bytes are in the stream; none are needed if `k = 0`. -/
def LiteralsThere (s : State) (c k : Nat) : Prop := k = 0 ∨ s.ip + c + k ≤ s.srcLen

/-- A match token whose control bytes end `c` bytes after `ip` passes every check (43 R177, 60 R193 c, e, f). -/
def MatchInBounds (s : State) (c lit mlen off : Nat) : Prop :=
  LiteralsThere s c lit ∧ off ≤ s.wp + lit ∧ s.wp + lit + mlen ≤ s.size

/-- `k` bytes of the stream, from `a` on, stand in DST from `wp` on. -/
def LiteralsCopied (s t : State) (a k : Nat) : Prop :=
  ∀ i, i < k → Memory.read t.dst (s.wp + i) = Memory.read s.src (a + i)

/-- Every byte of DST outside the `k` bytes from `wp` on reads as before. -/
def OnlyOutputWritten (s t : State) (k : Nat) : Prop :=
  ∀ a, a < s.wp ∨ s.wp + k ≤ a → Memory.read t.dst a = Memory.read s.dst a

/-- The effect of a match token that completes (43 R166 to R168, R173, R174): `ip` past its bytes, `wp` past its
output, the literals, then `mlen` bytes each repeating the byte `off` before it; every other byte as before. -/
def MatchEffect (s t : State) (c lit mlen off : Nat) : Prop :=
  t.ip = s.ip + c + lit ∧ t.wp = s.wp + lit + mlen ∧
  LiteralsCopied s t (s.ip + c) lit ∧
  (∀ k, k < mlen → Memory.read t.dst (s.wp + lit + k) = Memory.read t.dst (s.wp + lit + k - off)) ∧
  OnlyOutputWritten s t (lit + mlen)

/-- The effect of a token that only copies `k` literal bytes after `c` control bytes (43 R169, R170). -/
def LiteralEffect (s t : State) (c k : Nat) : Prop :=
  t.ip = s.ip + c + k ∧ t.wp = s.wp + k ∧ LiteralsCopied s t (s.ip + c) k ∧ OnlyOutputWritten s t k

/-- `t` is `s` but for `ip`, `wp`, `dstate`, DST, and the token temporaries, which hold unspecified values after a
token (10 R29), with the count of free values. -/
def TokenFrame (s t : State) : Prop :=
  t = { s with
    ip := t.ip, wp := t.wp, dstate := t.dstate, dst := t.dst, b0 := t.b0, b1 := t.b1, b2 := t.b2, b3 := t.b3,
    lit := t.lit, mlen := t.mlen, off := t.off, draw := t.draw }

/-- `t` is `s` but for `scan`, `flushed`, `dlen`, DST, HEAD, PREV, and the position's temporaries, which hold
unspecified values after a position (93 U6), with the count of free values. -/
def PositionFrame (s t : State) : Prop :=
  t = { s with
    scan := t.scan, flushed := t.flushed, dlen := t.dlen, dst := t.dst, head := t.head, prev := t.prev,
    lit := t.lit, key := t.key, cand := t.cand, hops := t.hops, curLen := t.curLen, bestLen := t.bestLen,
    bestOff := t.bestOff, draw := t.draw }

end Sys2Proof.Machine
end

