-- ==== Sys2Proof/Certificates/Slice0/Obligations.lean ====
section
/-! DEFINITION. The statements for the provers, in the order of OBLIGATIONS.json. -/

open Sys2Proof Sys2Proof.Machine

/-! ## Encoding -/

/-- 30 R82, first half: unpacking the bytes that packing gives returns the token, for every token in range and
whatever bytes follow. -/
def Obligations.DecodeOfEncode : Prop :=
  ∀ (i : Instr) (rest : List Byte), i.wf = true → decode (encode i ++ rest) = .ok (i, rest)

/-- 30 R82, converse: every byte pattern that decodes gives fields in range, and is the packing of them. -/
def Obligations.EncodeOfDecode : Prop :=
  ∀ (bs rest : List Byte) (i : Instr), decode bs = .ok (i, rest) → i.wf = true ∧ bs = encode i ++ rest

/-- 30 R78: the table of `byte0` ranges, the mask-and-match form, and the control byte counts. -/
def Obligations.FirstByteSelectsKind : Prop :=
  ∀ b : Byte,
    (b.toNat < 0x80 → kindOf b = .shortMatch) ∧
    (0x80 ≤ b.toNat ∧ b.toNat < 0xC0 → kindOf b = .mediumMatch) ∧
    (0xC0 ≤ b.toNat ∧ b.toNat < 0xE0 → kindOf b = .longMatch) ∧
    (0xE0 ≤ b.toNat ∧ b.toNat < 0xFC → kindOf b = .rawRun) ∧
    (0xFC ≤ b.toNat → kindOf b = .terminal) ∧
    (kindOf b = .shortMatch ↔ b &&& 0x80 = 0x00) ∧
    (kindOf b = .mediumMatch ↔ b &&& 0xC0 = 0x80) ∧
    (kindOf b = .longMatch ↔ b &&& 0xE0 = 0xC0) ∧
    (kindOf b = .terminal ↔ b &&& 0xFC = 0xFC) ∧
    (kindOf b = .rawRun ↔ b &&& 0xE0 = 0xE0 ∧ b &&& 0xFC ≠ 0xFC) ∧
    Kind.shortMatch.controlBytes = 2 ∧ Kind.mediumMatch.controlBytes = 3 ∧ Kind.longMatch.controlBytes = 4 ∧
    Kind.rawRun.controlBytes = 1 ∧ Kind.terminal.controlBytes = 1

/-- Words the spec writes out (95 V12 b, c, k, t, v; 30 R76, R77) decode to the tokens they stand for. -/
def Obligations.SpecWordsDecode : Prop :=
  decode [0x7F, 0xFF] = .ok (.shortMatch 3 10 1024, []) ∧
  decode [0x32, 0x2B] = .ok (.shortMatch 2 7 300, []) ∧
  decode [0x8F, 0x40, 0x00] = .ok (.mediumMatch 1 19 1, []) ∧
  decode [0xD6, 0x11, 0x6F, 0x27] = .ok (.longMatch 2 300 70000, []) ∧
  decode [0xDF, 0xFF, 0xFF, 0xFF] = .ok (.longMatch 3 1028 131072, []) ∧
  decode [0xE0] = .ok (.rawRun 4, []) ∧ decode [0xFB] = .ok (.rawRun 112, []) ∧
  decode [0xFC] = .ok (.terminal 0, []) ∧ decode [0xFF] = .ok (.terminal 3, [])

/-- 30 R79: control bytes, literal count, bytes in the stream and bytes produced, kind by kind. -/
def Obligations.TokenLengths : Prop :=
  ∀ i : Instr, i.wf = true →
    (encode i).length = i.kind.controlBytes ∧
    match i with
    | .shortMatch lit len off =>
      i.literals = lit ∧ lit ≤ 3 ∧ i.produced = lit + len ∧ 3 ≤ i.produced ∧ i.produced ≤ 13 ∧ 1 ≤ off
    | .mediumMatch lit len off =>
      i.literals = lit ∧ lit ≤ 3 ∧ i.produced = lit + len ∧ 4 ≤ i.produced ∧ i.produced ≤ 70 ∧ 1 ≤ off
    | .longMatch lit len off =>
      i.literals = lit ∧ lit ≤ 3 ∧ i.produced = lit + len ∧ 5 ≤ i.produced ∧ i.produced ≤ 1031 ∧ 1 ≤ off
    | .rawRun len =>
      i.literals = len ∧ i.produced = len ∧ 4 ≤ len ∧ len ≤ 112 ∧ len % 4 = 0
    | .terminal lit => i.literals = lit ∧ i.produced = lit ∧ lit ≤ 3

/-! ## Start steps and the header -/

/-- 42 R130 with 40 R100: the start of COMPRESS. Tables cleared, cursors at 0, the five header bytes written and
nothing else changed; an input above 0xFFFFFF fails with InputTooLarge before any of it. -/
def Obligations.CompressStarts : Prop :=
  ∀ s : State,
    (s.srcLen ≤ 0xFFFFFF →
      ∃ t, startCompress s = .next t ∧
        (∀ k, headRead t k = none) ∧ t.scan = 0 ∧ t.flushed = 0 ∧ t.dlen = 5 ∧
        Memory.read t.dst 0 = 0x10 ∧ Memory.read t.dst 1 = 0xFB ∧
        (Memory.read t.dst 2).toNat = s.srcLen / 65536 ∧
        (Memory.read t.dst 3).toNat = s.srcLen / 256 % 256 ∧
        (Memory.read t.dst 4).toNat = s.srcLen % 256 ∧
        (∀ a, 5 ≤ a → Memory.read t.dst a = Memory.read s.dst a) ∧
        t = { s with head := t.head, scan := t.scan, flushed := t.flushed, dlen := t.dlen, dst := t.dst }) ∧
    (0xFFFFFF < s.srcLen → startCompress s = .next (raise .inputTooLarge s))

/-- 40 R102 and R103: the header read of DECOMPRESS, with `HDR_EXT_LEN` 9 or, under the other reading of 90 C9, 8. The
magic check first, then the length check, then the fields; the bytes after the size field are not read. -/
def Obligations.DecompressStarts : Prop :=
  ∀ s : State,
    let b := fun k => (Memory.read s.src k).toNat
    let magic := (b 0 = 0x10 ∨ b 0 = 0x11) ∧ b 1 = 0xFB
    let ext := match s.hdrExtLen with
      | .nine => 9
      | .eight => 8
    let hlen := if b 0 % 2 = 0 then 5 else ext
    (s.srcLen < 2 ∨ ¬magic → startDecompress s = .next (raise .invalidMagic s)) ∧
    (2 ≤ s.srcLen → magic → s.srcLen < hlen → startDecompress s = .next (raise .corrupt s)) ∧
    (2 ≤ s.srcLen → magic → hlen ≤ s.srcLen →
      startDecompress s =
        .next { s with
          hlen := hlen, size := b 2 * 65536 + b 3 * 256 + b 4, ip := hlen, wp := 0, dstate := .running })

/-- 40 R106: the first five bytes of a successful COMPRESS of `n` bytes are `10 FB` and the big-endian `n`, and the
header read on them gives `size = n`, `hlen = 5`. -/
def Obligations.HeaderFidelity : Prop :=
  ∀ (s : State) (bs : List Byte) (wb mh : Option Int),
    s.status ≠ .busy → bs.length ≤ 0xFFFFFF → windowBitsOk wb = true → maxHopsOk mh = true →
    ∃ t, Reaches (started s (Ref.compressCmd bs wb mh)) t ∧ t.op = .idle ∧ t.status = .done ∧
      Memory.slice t.dst 0 5 = headerBytes bs.length ∧
      ∀ u : State, 5 ≤ u.srcLen → Memory.slice u.src 0 5 = Memory.slice t.dst 0 5 →
        ∃ v, startDecompress u = .next v ∧ v.size = bs.length ∧ v.hlen = 5

/-! ## The tokens, by `exec` -/

/-- 43 R177, R173 to R176: from a state whose control bytes have been fetched, the three match tokens do one thing.
In bounds they complete, with this effect and frame; otherwise they raise Corrupt. -/
def Obligations.MatchTokensExecute : Prop :=
  ∀ (lit mlen off : Nat) (s : State), 0 < mlen → 0 < off →
    (MatchInBounds s 0 lit mlen off →
      ∃ t, exec (.shortMatch lit mlen off) s = .next t ∧ exec (.mediumMatch lit mlen off) s = .next t ∧
        exec (.longMatch lit mlen off) s = .next t ∧ MatchEffect s t 0 lit mlen off ∧
        t = { s with lit := lit, mlen := mlen, off := off, ip := t.ip, wp := t.wp, dst := t.dst }) ∧
    (¬MatchInBounds s 0 lit mlen off →
      exec (.shortMatch lit mlen off) s = .next (raise .corrupt s) ∧
      exec (.mediumMatch lit mlen off) s = .next (raise .corrupt s) ∧
      exec (.longMatch lit mlen off) s = .next (raise .corrupt s))

/-- 43 R169, R173: a RawRun whose control byte has been fetched completes when its bytes are in the stream and fit
the output, and raises Corrupt otherwise. -/
def Obligations.RawRunExecutes : Prop :=
  ∀ (len : Nat) (s : State), 0 < len →
    (s.ip + len ≤ s.srcLen → s.wp + len ≤ s.size →
      ∃ t, exec (.rawRun len) s = .next t ∧ LiteralEffect s t 0 len ∧
        t = { s with lit := len, ip := t.ip, wp := t.wp, dst := t.dst }) ∧
    (s.srcLen < s.ip + len ∨ s.size < s.wp + len → exec (.rawRun len) s = .next (raise .corrupt s))

/-- 43 R170, R180: a Terminal, `ip` on its control byte, is read only when the output is not full; then it completes
when its literals are in the stream and fit, and raises Corrupt otherwise. -/
def Obligations.TerminalExecutes : Prop :=
  ∀ (lit : Nat) (s : State),
    (s.size ≤ s.wp → exec (.terminal lit) s = .next { s with dstate := .done }) ∧
    (s.wp < s.size → LiteralsThere s 1 lit → s.wp + lit ≤ s.size →
      ∃ t, exec (.terminal lit) s = .next t ∧ LiteralEffect s t 1 lit ∧
        t = { s with lit := lit, dstate := .done, ip := t.ip, wp := t.wp, dst := t.dst }) ∧
    (s.wp < s.size → ¬(LiteralsThere s 1 lit ∧ s.wp + lit ≤ s.size) →
      exec (.terminal lit) s = .next (raise .corrupt s))

/-- 20 R60, 43 R184: a back-copy extends the last `off` bytes periodically: byte `k` is the byte read from `off`
behind it after the bytes before it were written, and in terms of the content before the copy
`DST[wp0 - off + (k mod off)]`. -/
def Obligations.BackCopyIsPeriodic : Prop :=
  ∀ (len off : Nat) (s t : State), 0 < off → backCopy len off s = .ok t →
    ∀ k, k < len →
      Memory.read t.dst (s.wp + k) = Memory.read t.dst (s.wp + k - off) ∧
      Memory.read t.dst (s.wp + k) = Memory.read s.dst (s.wp - off + k % off)

/-! ## The tokens, by one step -/

/-- A step runs the decoded token (43 R165, 70 R240): where the control bytes at `ip` are the encoding of a token in
range, one step is `exec` of it after they are fetched, then its temporaries become unspecified; fetching moves
`ip` past them and leaves a Terminal's on its place, the loop exited. -/
def Obligations.StepRunsToken : Prop :=
  ∀ (s : State) (i : Instr), Fetching s → i.wf = true → s.ip + i.kind.controlBytes ≤ s.srcLen →
    Memory.slice s.src s.ip i.kind.controlBytes = encode i →
    step s = endToken (exec i (fetched i.kind s)) ∧
    (i.kind ≠ .terminal →
      (fetched i.kind s).ip = s.ip + i.kind.controlBytes ∧ (fetched i.kind s).dstate = s.dstate) ∧
    (i.kind = .terminal → (fetched i.kind s).ip = s.ip ∧ (fetched i.kind s).dstate = .terminalRead) ∧
    (fetched i.kind s).b0 = Memory.read s.src s.ip ∧
    TokenFrame s (fetched i.kind s) ∧ (fetched i.kind s).wp = s.wp ∧ (fetched i.kind s).dst = s.dst

/-- 43 R166: ShortMatch, from its control bytes to its effect or its failure. -/
def Obligations.ShortMatchSteps : Prop :=
  ∀ s : State, Fetching s → s.ip < s.srcLen → streamByte s 0 < 0x80 →
    let lit := streamByte s 0 % 4
    let mlen := streamByte s 0 / 4 % 8 + 3
    let off := streamByte s 0 / 32 * 256 + streamByte s 1 + 1
    (s.ip + 2 ≤ s.srcLen → MatchInBounds s 2 lit mlen off →
      ∃ t, step s = .next t ∧ MatchEffect s t 2 lit mlen off ∧ t.dstate = .running ∧ TokenFrame s t) ∧
    (¬(s.ip + 2 ≤ s.srcLen ∧ MatchInBounds s 2 lit mlen off) → step s = .next (raise .corrupt s))

/-- 43 R167: MediumMatch, from its control bytes to its effect or its failure. -/
def Obligations.MediumMatchSteps : Prop :=
  ∀ s : State, Fetching s → s.ip < s.srcLen → 0x80 ≤ streamByte s 0 → streamByte s 0 < 0xC0 →
    let lit := streamByte s 1 / 64
    let mlen := streamByte s 0 % 64 + 4
    let off := streamByte s 1 % 64 * 256 + streamByte s 2 + 1
    (s.ip + 3 ≤ s.srcLen → MatchInBounds s 3 lit mlen off →
      ∃ t, step s = .next t ∧ MatchEffect s t 3 lit mlen off ∧ t.dstate = .running ∧ TokenFrame s t) ∧
    (¬(s.ip + 3 ≤ s.srcLen ∧ MatchInBounds s 3 lit mlen off) → step s = .next (raise .corrupt s))

/-- 43 R168: LongMatch, from its control bytes to its effect or its failure. -/
def Obligations.LongMatchSteps : Prop :=
  ∀ s : State, Fetching s → s.ip < s.srcLen → 0xC0 ≤ streamByte s 0 → streamByte s 0 < 0xE0 →
    let lit := streamByte s 0 % 4
    let mlen := streamByte s 0 / 4 % 4 * 256 + streamByte s 3 + 5
    let off := streamByte s 0 / 16 % 2 * 65536 + streamByte s 1 * 256 + streamByte s 2 + 1
    (s.ip + 4 ≤ s.srcLen → MatchInBounds s 4 lit mlen off →
      ∃ t, step s = .next t ∧ MatchEffect s t 4 lit mlen off ∧ t.dstate = .running ∧ TokenFrame s t) ∧
    (¬(s.ip + 4 ≤ s.srcLen ∧ MatchInBounds s 4 lit mlen off) → step s = .next (raise .corrupt s))

/-- 43 R169: RawRun, from its control byte to its effect or its failure. -/
def Obligations.RawRunSteps : Prop :=
  ∀ s : State, Fetching s → s.ip < s.srcLen → 0xE0 ≤ streamByte s 0 → streamByte s 0 < 0xFC →
    let len := (streamByte s 0 - 0xE0) * 4 + 4
    (s.ip + 1 + len ≤ s.srcLen ∧ s.wp + len ≤ s.size →
      ∃ t, step s = .next t ∧ LiteralEffect s t 1 len ∧ t.dstate = .running ∧ TokenFrame s t) ∧
    (¬(s.ip + 1 + len ≤ s.srcLen ∧ s.wp + len ≤ s.size) → step s = .next (raise .corrupt s))

/-- 43 R170, R180: Terminal, from its control byte to its effect or its failure; met with the output full, nothing is
read and `ip` stays. -/
def Obligations.TerminalSteps : Prop :=
  ∀ s : State, Fetching s → s.ip < s.srcLen → 0xFC ≤ streamByte s 0 →
    let lit := streamByte s 0 % 4
    (s.size ≤ s.wp →
      ∃ t, step s = .next t ∧ t.ip = s.ip ∧ t.wp = s.wp ∧ t.dst = s.dst ∧ t.dstate = .done ∧ TokenFrame s t) ∧
    (s.wp < s.size → LiteralsThere s 1 lit ∧ s.wp + lit ≤ s.size →
      ∃ t, step s = .next t ∧ LiteralEffect s t 1 lit ∧ t.dstate = .done ∧ TokenFrame s t) ∧
    (s.wp < s.size → ¬(LiteralsThere s 1 lit ∧ s.wp + lit ≤ s.size) → step s = .next (raise .corrupt s))

/-- 43 R171: a token that completes moves `ip` by its control and literal bytes and by nothing else; a Terminal met
with the output full moves it by 0. -/
def Obligations.IpAdvancesByTokenLength : Prop :=
  ∀ s t : State, Fetching s → step s = .next t → t.op = .decompress →
    ∃ i rest, decode (controlWindow s) = .ok (i, rest) ∧
      t.ip = s.ip + (if i.kind = .terminal ∧ s.size ≤ s.wp then 0 else i.kind.controlBytes + i.literals)

/-- 43 R183: a pass of the loop that does not fail moves `ip` by at least 2 and `wp` by at least 3. -/
def Obligations.LoopProgress : Prop :=
  ∀ s t : State, Fetching s → step s = .next t → t.op = .decompress → t.dstate = .running →
    s.ip + 2 ≤ t.ip ∧ s.wp + 3 ≤ t.wp

/-- 43 R178: looking for the next control byte at the end of the stream raises Corrupt, even with the output full. -/
def Obligations.MissingTerminalIsCorrupt : Prop :=
  ∀ s : State, Fetching s → s.srcLen ≤ s.ip → step s = .next (raise .corrupt s)

/-- 43 R172, 60 R198: the final check. That a success leaves every register and buffer as it is, the clause on `t`, is
the model's choice (log 7). -/
def Obligations.FinalCheckDecides : Prop :=
  ∀ s : State, s.port = none → s.op = .decompress → s.dstate = .done →
    (s.wp ≠ s.size → step s = .next (raise .corrupt s)) ∧
    (s.wp = s.size →
      ∃ t, step s = .next t ∧ t = { s with op := .idle, status := .done, err := none } ∧
        decompressed t = Memory.slice s.dst 0 s.size)

/-! ## The whole machine -/

/-- 60 R197: a failure ends the operation with its name in `err`, and nothing of the operation survives it: the state
after it depends on SRC, which the block never writes, on the host's port, on the parameter `HDR_EXT_LEN` and on the
drawing of the free values. -/
def Obligations.RaiseDiscardsOperation : Prop :=
  ∀ (e : Failure) (s : State),
    (raise e s).op = .idle ∧ (raise e s).status = .failed ∧ (raise e s).err = some e ∧ (raise e s).src = s.src ∧
    ∀ t : State, t.src = s.src → t.port = s.port → t.hdrExtLen = s.hdrExtLen → t.draw = s.draw →
      raise e t = raise e s

/-- 10 R20, R39, 70 R220: an operation starts from a fresh state. Whatever two idle blocks with the same
`HDR_EXT_LEN` held before, the same start command takes them to the same state, or is refused alike. -/
def Obligations.StartIsFresh : Prop :=
  ∀ (s t : State) (c : StartCmd), s.status ≠ .busy → t.status ≠ .busy → s.hdrExtLen = t.hdrExtLen → s.draw = t.draw →
    step (started s c) = step (started t c)

/-- 00 R6, 43 R182, 92 D17: no step writes the parameter `HDR_EXT_LEN`, a field of the state by the model's choice
(log 12), and it matters only to the start of a
DECOMPRESS whose first byte is 0x11: every other step that completes is the same for its two values. -/
def Obligations.ExtensionLengthIsAParameter : Prop :=
  ∀ s t : State, step s = .next t →
    t.hdrExtLen = s.hdrExtLen ∧
    ((∀ c, s.port = some (.start c) → c.job = .decompress → Memory.read (inputMemory c) 0 ≠ 0x11) →
      ∀ e : HdrExtLen, step { s with hdrExtLen := e } = .next { t with hdrExtLen := e })

/-- 60 R190, R194, R197: a step that ends in a failed state stands in an ended operation that had failed before, or it
is a failure now: the operation ends, `err` names it, and only the operation the spec names can raise it. -/
def Obligations.FailuresByOperation : Prop :=
  ∀ s t : State, step s = .next t → t.status = .failed →
    (s.status = .failed ∧ t.err = s.err ∧ t.op = s.op) ∨
    (t.op = .idle ∧ t.port = none ∧
      ((t.err = some .inputTooLarge ∧
          ∃ c wb mh, s.port = some (.start c) ∧ c.job = .compress wb mh ∧ 0xFFFFFF < c.srcLen) ∨
        (t.err = some .invalidMagic ∧ ∃ c, s.port = some (.start c) ∧ c.job = .decompress) ∨
        (t.err = some .corrupt ∧
          ((∃ c, s.port = some (.start c) ∧ c.job = .decompress) ∨ (s.port = none ∧ s.op = .decompress)))))

/-- 60 R198: a step that ends a running operation without a failure sets `status`, `err` and `op`, at the end of the
input (COMPRESS) or at the passed final check (DECOMPRESS), whose output it hands over as it is. -/
def Obligations.SuccessEndsOperation : Prop :=
  ∀ s t : State, s.port = none → s.op ≠ .idle → step s = .next t → t.op = .idle → t.status ≠ .failed →
    t.status = .done ∧ t.err = none ∧
    (s.op = .compress → s.srcLen ≤ s.scan) ∧
    (s.op = .decompress → s.dstate = .done ∧ s.wp = s.size ∧ decompressed t = Memory.slice s.dst 0 s.size)

/-- The invariant holds at power-on. It rests on the reset values the model chose (log 2). -/
def Obligations.InvariantAtReset : Prop := Inv State.reset

/-- Every step keeps the invariant: canonical spaces, `status` and `err` agreeing with `op`, and the bounds of 10 R26 to
R31, 42 R149 a, R152 and 43 R163. -/
def Obligations.InvariantKept : Prop := ∀ s t : State, Inv s → step s = .next t → Inv t

/-- 42 R151, 60 R205: no step is stuck: the shape selection always finds a shape, whatever the tables hold. -/
def Obligations.StepNeverFaults : Prop := ∀ (s : State) (f : Fault), step s ≠ .fault f

/-- 60 R212, 70 R227: only the host's acts are refused; every act is while an operation runs; and a start command
outside the contract is refused by name. -/
def Obligations.HostActsRefused : Prop :=
  (∀ (s : State) (r : Refusal), step s = .refused r → s.port ≠ none) ∧
  (∀ (s : State) (a : HostAct), s.status = .busy → s.port = some a → ∃ r, step s = .refused r) ∧
  (∀ (s : State) (c : StartCmd), s.status ≠ .busy →
    (2 ^ 32 ≤ c.srcLen → step (started s c) = .refused .srcLenTooLarge) ∧
    (c.srcLen < 2 ^ 32 → c.disjoint = false → step (started s c) = .refused .buffersOverlap) ∧
    (c.srcLen < 2 ^ 32 → c.disjoint = true → ∀ wb mh, c.job = .compress wb mh →
      (∀ w, wb = some w → w < 0 ∨ 17 < w → step (started s c) = .refused .windowBitsOutOfRange) ∧
      (windowBitsOk wb = true → ∀ h, mh = some h → h < 0 → step (started s c) = .refused .maxHopsNegative)))

/-- 70 R225, 00 R6, 10 R39: a start of COMPRESS within the contract latches the input and the parameters, 17 and 50
where not given, or fails with InputTooLarge. That SRC reads as 0 at and past `srcLen` is the model's choice (log 1). -/
def Obligations.StartLatchesParameters : Prop :=
  ∀ (s : State) (bs : List Byte) (wb mh : Option Int),
    s.status ≠ .busy → bs.length < 2 ^ 32 → windowBitsOk wb = true → maxHopsOk mh = true →
    ∃ t, step (started s (Ref.compressCmd bs wb mh)) = .next t ∧ t.port = none ∧
      (bs.length ≤ 0xFFFFFF →
        t.op = .compress ∧ t.status = .busy ∧ t.err = none ∧ t.srcLen = bs.length ∧
        (∀ a, Memory.read t.src a = bs.getD a 0) ∧
        (t.windowBits : Int) = wb.getD 17 ∧ (t.maxHops : Int) = mh.getD 50 ∧
        t.scan = 0 ∧ t.flushed = 0 ∧ t.dlen = 5 ∧ (∀ k, headRead t k = none)) ∧
      (0xFFFFFF < bs.length → t.op = .idle ∧ t.status = .failed ∧ t.err = some .inputTooLarge)

/-- 10 R41, R21: a step of an operation never writes SRC, and while nothing fails neither `srcLen` nor the
parameters. -/
def Obligations.InputsNeverWritten : Prop :=
  ∀ s t : State, s.port = none → step s = .next t →
    t.src = s.src ∧
    (t.status ≠ .failed → t.srcLen = s.srcLen ∧ t.windowBits = s.windowBits ∧ t.maxHops = s.maxHops)

/-- 10 R41: COMPRESS and DECOMPRESS write only registers of their own groups. That the step which ends an operation
with success leaves them too is the model's choice (log 7). -/
def Obligations.OperationsKeepToTheirRegisters : Prop :=
  ∀ s t : State, s.port = none → step s = .next t → t.status ≠ .failed →
    (s.op = .decompress →
      t.scan = s.scan ∧ t.flushed = s.flushed ∧ t.dlen = s.dlen ∧ t.key = s.key ∧ t.cand = s.cand ∧
      t.hops = s.hops ∧ t.curLen = s.curLen ∧ t.bestLen = s.bestLen ∧ t.bestOff = s.bestOff ∧
      t.head = s.head ∧ t.prev = s.prev ∧ t.prevInit = s.prevInit ∧ t.size = s.size ∧ t.hlen = s.hlen) ∧
    (s.op = .compress →
      t.ip = s.ip ∧ t.wp = s.wp ∧ t.size = s.size ∧ t.hlen = s.hlen ∧ t.dstate = s.dstate ∧
      t.b0 = s.b0 ∧ t.b1 = s.b1 ∧ t.b2 = s.b2 ∧ t.b3 = s.b3 ∧ t.mlen = s.mlen ∧ t.off = s.off ∧
      t.prevInit = s.prevInit)

/-- 43 R163: `wp` never decreases and never passes `size`, and the bytes written are never rewritten. That the passed
final check leaves `wp` and `size` as well is the model's choice (log 7). -/
def Obligations.OutputNeverRewritten : Prop :=
  ∀ s t : State, s.port = none → s.op = .decompress → s.wp ≤ s.size → step s = .next t → t.status ≠ .failed →
    s.wp ≤ t.wp ∧ t.wp ≤ t.size ∧ t.size = s.size ∧ ∀ a, a < s.wp → Memory.read t.dst a = Memory.read s.dst a

/-- 43 R182, R183, 70 R242: from every state of its invariant DECOMPRESS ends, within half the bytes left and two
steps. -/
def Obligations.DecompressEnds : Prop :=
  ∀ s : State, s.port = none → s.op = .decompress → DecoderOk s →
    ∃ t, Sys2Proof.core.run ((s.srcLen - s.ip) / 2 + 2) s = .next t ∧ t.op = .idle

/-- 70 R242, 42 R131: COMPRESS ends with a result, one step for every position left and one more. -/
def Obligations.CompressEnds : Prop :=
  ∀ s : State, Encoding s → s.scan ≤ s.srcLen →
    ∃ t, Sys2Proof.core.run (s.srcLen - s.scan + 1) s = .next t ∧ t.op = .idle ∧ t.status = .done ∧ t.err = none

/-- 43 R181: a run of DECOMPRESS, from any idle state, gives what the one-function form gives with the machine's
`HDR_EXT_LEN`, 9 or 8, result or failure. -/
def Obligations.DecompressIsOneFunction : Prop :=
  ∀ (s : State) (bs : List Byte), s.status ≠ .busy → bs.length < 2 ^ 32 →
    ∃ t, Reaches (started s (Ref.decompressCmd bs)) t ∧ t.op = .idle ∧
      match Ref.decompress (extLength s.hdrExtLen) bs with
      | .ok out => t.status = .done ∧ t.err = none ∧ decompressed t = out
      | .error e => t.status = .failed ∧ t.err = some e

/-- 43 R179, 93 U1: the decoder's step depends on no byte of SRC before `ip`, the reserved header bytes among them,
and after the Terminal step on no byte of SRC at all. -/
def Obligations.BytesBehindAndAfterIgnored : Prop :=
  ∀ (s t : State) (src : Memory), s.port = none → s.op = .decompress → step s = .next t →
    ((s.dstate = .running ∧ ∀ a, s.ip ≤ a → Memory.read src a = Memory.read s.src a) ∨ s.dstate = .done) →
    step { s with src := src } = .next { t with src := src }

/-- 10 R29, R39, 93 U6: no token reads a temporary an earlier token wrote, and no position one an earlier position
wrote: whatever they hold, the step is the same. -/
def Obligations.TemporariesNotRead : Prop :=
  (∀ (s : State) (c0 c1 c2 c3 : Byte) (l m o : Nat), Fetching s →
    step { s with b0 := c0, b1 := c1, b2 := c2, b3 := c3, lit := l, mlen := m, off := o } = step s) ∧
  (∀ (s : State) (c : Option Nat) (l k h u b o : Nat), Encoding s →
    step { s with lit := l, key := k, cand := c, hops := h, curLen := u, bestLen := b, bestOff := o } = step s)

/-! ## The match finder -/

/-- 41 R112, 70 R231, R232: INSERT reads HEAD, links PREV to what it read, and makes `scan` the head; nothing else
changes. -/
def Obligations.InsertLinksThenHeads : Prop :=
  ∀ s : State,
    let t := insertPosition s
    t.cand = headRead s s.key ∧
    prevRead t (s.scan % window s) = headRead s s.key ∧
    headRead t s.key = some s.scan ∧
    (∀ k, k ≠ s.key → headRead t k = headRead s k) ∧
    (∀ i, i ≠ s.scan % window s → prevRead t i = prevRead s i) ∧
    t = { s with cand := t.cand, head := t.head, prev := t.prev }

/-- 41 R115: PREFIXLEN is the largest `k ≤ cap` such that the `k` bytes at the candidate equal the `k` bytes at the
position. -/
def Obligations.PrefixLenIsLargest : Prop :=
  ∀ (src : Memory) (p c cap : Nat),
    prefixLen src p c cap ≤ cap ∧
    (∀ i, i < prefixLen src p c cap → Memory.read src (c + i) = Memory.read src (p + i)) ∧
    (∀ k, k ≤ cap → (∀ i, i < k → Memory.read src (c + i) = Memory.read src (p + i)) →
      k ≤ prefixLen src p c cap)

/-- 42 R149 c: the match a search finds, whatever the tables hold, is a true repetition of the input at its offset,
at most the input's rest and 1028 bytes long, at a distance inside the window. -/
def Obligations.MatchFoundIsReal : Prop :=
  ∀ s : State,
    let t := search s
    t.bestLen ≤ 1028 ∧ t.bestLen ≤ s.srcLen - s.scan ∧
    (0 < t.bestLen →
      1 ≤ t.bestOff ∧ t.bestOff ≤ s.scan ∧ t.bestOff < window s ∧
      ∀ k, k < t.bestLen → Memory.read s.src (s.scan + k) = Memory.read s.src (s.scan - t.bestOff + k))

/-- 10 R31, R32, 42 R149 b: the chain invariant and the prefix invariant hold when COMPRESS has started. -/
def Obligations.LoopInvariantsAtStart : Prop :=
  ∀ s : State, s.srcLen ≤ 0xFFFFFF → ∃ t, startCompress s = .next t ∧ ChainsOk t ∧ PrefixDecodes t

/-- 41 R120, 10 R31, R32: every position of COMPRESS keeps the chain invariant: HEAD the newest occurrence of every
key, PREV the occurrence before each position of the window. -/
def Obligations.ChainsKept : Prop :=
  ∀ s t : State, Encoding s → ChainsOk s → step s = .next t → t.op = .compress → ChainsOk t

/-- 41 R124, R117, R120: with the chains in order, the search over the tables finds exactly what the table-free
description finds: the longest common prefix among the earlier positions with the same two bytes, newest first,
cut at the window and at `MAX_HOPS`, the first on ties. -/
def Obligations.SearchIsTableFree : Prop :=
  ∀ s : State, s.scan + 1 < s.srcLen → ChainsOk s →
    let t := finderStep true s
    let r := Ref.find s.src s.srcLen (window s) s.maxHops s.scan
    t.bestLen = r.1 ∧ (0 < t.bestLen → t.bestOff = r.2)

/-- 41 R121, 93 U2: the unspecified initial contents of PREV are never read: whatever they are, every step of
COMPRESS is the same. -/
def Obligations.InitialPrevNeverRead : Prop :=
  ∀ (s t : State) (d : Nat), Encoding s → ChainsOk s → step s = .next t →
    step { s with prevInit := d } = .next { t with prevInit := d }

/-! ## The token encoder -/

/-- 42 R135: the acceptance policy. -/
def Obligations.AcceptancePolicy : Prop :=
  ∀ len off : Nat,
    accept len off = true ↔ (len = 3 ∧ off ≤ 1024) ∨ (len = 4 ∧ off ≤ 16384) ∨ 5 ≤ len

/-- 42 R140: an accepted match in the finder's bounds gets the smallest shape that fits, with every field in that
shape's range. -/
def Obligations.SelectedShapeFits : Prop :=
  ∀ W lit len off : Nat, W ≤ 131072 → lit ≤ 3 → accept len off = true → len ≤ 1028 → 1 ≤ off → off < W →
    ∃ i, select W lit len off = some i ∧ i.wf = true ∧ i.literals = lit ∧
      (len ≤ 10 ∧ off ≤ 1024 → i = .shortMatch lit len off) ∧
      (¬(len ≤ 10 ∧ off ≤ 1024) → len ≤ 67 ∧ off ≤ 16384 → i = .mediumMatch lit len off) ∧
      (¬(len ≤ 10 ∧ off ≤ 1024) → ¬(len ≤ 67 ∧ off ≤ 16384) → i = .longMatch lit len off)

/-- 42 R138: FLUSH covers the gap by RawRuns of multiples of 4 up to 112, every one but the last of 112, in order, and
returns the 0 to 3 bytes left in `lit`. -/
def Obligations.FlushCoversGap : Prop :=
  ∀ (s : State) (upto : Nat), s.flushed ≤ upto →
    ∃ ls : List Nat,
      (∀ l ∈ ls, 4 ≤ l ∧ l ≤ 112 ∧ l % 4 = 0) ∧ (∀ l ∈ ls.dropLast, l = 112) ∧
      (flush upto s).flushed = s.flushed + ls.sum ∧
      upto - (flush upto s).flushed = (flush upto s).lit ∧ (flush upto s).lit ≤ 3 ∧
      (flush upto s).flushed ≤ upto ∧
      flush upto s =
        { appendAll (Ref.runBytes s.src s.flushed ls) s with
          flushed := (flush upto s).flushed, lit := (flush upto s).lit }

/-- 42 R132, 70 R233: a covered position is inserted and nothing else happens to the tables or the output. -/
def Obligations.CoveredPositionOnlyInserts : Prop :=
  ∀ s : State, Encoding s → s.scan + 1 < s.srcLen → s.scan < s.flushed →
    ∃ t, step s = .next t ∧ t.scan = s.scan + 1 ∧ t.flushed = s.flushed ∧ t.dlen = s.dlen ∧ t.dst = s.dst ∧
      (∀ k, headRead t k = if k = keyAt s.src s.scan then some s.scan else headRead s k) ∧
      (∀ i, prevRead t i = if i = s.scan % window s then headRead s (keyAt s.src s.scan) else prevRead s i) ∧
      PositionFrame s t

/-- 42 R133, 70 R234: at the last byte nothing is inserted, searched or emitted. -/
def Obligations.LastByteOnlyAdvances : Prop :=
  ∀ s : State, Encoding s → s.scan + 1 = s.srcLen →
    ∃ t, step s = .next t ∧ t.scan = s.scan + 1 ∧ t.flushed = s.flushed ∧ t.dlen = s.dlen ∧ t.dst = s.dst ∧
      t.head = s.head ∧ t.prev = s.prev ∧ PositionFrame s t

/-- 42 R131, R134, R136, R137: a position that is not covered is inserted and searched; an accepted match appends the
gap's RawRuns, its control bytes and its literals and moves `flushed` past it; a rejected one emits nothing. The
clamp changes nothing. -/
def Obligations.PositionEmitsAcceptedMatch : Prop :=
  ∀ s : State, Encoding s → s.scan + 1 < s.srcLen → s.flushed ≤ s.scan →
    let u := finderStep true s
    ∃ t, step s = .next t ∧ t.scan = s.scan + 1 ∧ t.head = u.head ∧ t.prev = u.prev ∧ PositionFrame s t ∧
      (accept u.bestLen u.bestOff = true →
        let bytes := Ref.matchBytes s.src (window s) s.flushed s.scan u.bestLen u.bestOff
        t.flushed = s.scan + u.bestLen ∧ t.dlen = s.dlen + bytes.length ∧
        t.dst = Memory.writeBytes s.dst s.dlen bytes) ∧
      (accept u.bestLen u.bestOff = false → t.flushed = s.flushed ∧ t.dlen = s.dlen ∧ t.dst = s.dst)

/-- 42 R145, R146, 60 R198: at the end of the input the last gap is flushed, one Terminal carries the rest, always, and
the operation is done. That `scan`, HEAD and PREV keep their values after it, the last three clauses, is the model's
choice (log 7): 42 R147 says that all other state is discarded. -/
def Obligations.StreamEndsWithTerminal : Prop :=
  ∀ s : State, Encoding s → s.scan = s.srcLen → s.flushed ≤ s.srcLen →
    ∃ t, step s = .next t ∧ t.op = .idle ∧ t.status = .done ∧ t.err = none ∧ t.flushed = s.srcLen ∧
      t.dlen = s.dlen + (Ref.tail s.src s.srcLen s.flushed).length ∧
      t.dst = Memory.writeBytes s.dst s.dlen (Ref.tail s.src s.srcLen s.flushed) ∧
      t.scan = s.scan ∧ t.head = s.head ∧ t.prev = s.prev

/-- 42 R152: a successful COMPRESS of `n` bytes gives at most `5 + n + n/112 + 2` bytes. -/
def Obligations.OutputLengthBound : Prop :=
  ∀ s t : State, Inv s → Encoding s → step s = .next t → t.op = .idle →
    t.dlen ≤ 5 + s.srcLen + s.srcLen / 112 + 2

/-- 42 R149 b: at the top of every iteration the tokens appended so far decode to the first `flushed` bytes of the
input, whatever follows them; followed by a Terminal with no literal they are a whole stream of those bytes. -/
def Obligations.PrefixDecodesKept : Prop :=
  ∀ s t : State, Inv s → Encoding s → PrefixDecodes s → step s = .next t → t.op = .compress →
    PrefixDecodes t ∧
    Ref.tokens t.flushed
      (Memory.slice t.dst Config.hdrLen (t.dlen - Config.hdrLen) ++ encode (.terminal 0)) =
        .ok (Memory.slice t.src 0 t.flushed)

/-- 42 R148: a run of COMPRESS, from any idle state, gives what the one-function form gives. -/
def Obligations.CompressIsOneFunction : Prop :=
  ∀ (s : State) (bs : List Byte) (wb mh : Option Int),
    s.status ≠ .busy → bs.length ≤ 0xFFFFFF → windowBitsOk wb = true → maxHopsOk mh = true →
    ∃ t, Reaches (started s (Ref.compressCmd bs wb mh)) t ∧ t.op = .idle ∧ t.status = .done ∧ t.err = none ∧
      compressed t =
        Ref.compress (Memory.ofCells (Ref.cells bs)) bs.length (paramOr wb 17) (paramOr mh 50)

/-- 42 R154: the round trip, for every input of at most 0xFFFFFF bytes and every legal parameter. -/
def Obligations.RoundTrip : Prop :=
  ∀ (s : State) (bs : List Byte) (wb mh : Option Int),
    s.status ≠ .busy → bs.length ≤ 0xFFFFFF → windowBitsOk wb = true → maxHopsOk mh = true →
    ∃ t, Reaches (started s (Ref.compressCmd bs wb mh)) t ∧ t.op = .idle ∧ t.status = .done ∧
      ∃ u, Reaches (started t (Ref.decompressCmd (compressed t))) u ∧ u.op = .idle ∧ u.status = .done ∧
        decompressed u = bs

/-! ## The byte spaces -/

/-- Equal memories are equal data: two byte spaces in canonical form that read alike at every index are the same
list. It is a statement about the model's representation (log 1). -/
def Obligations.EqualMemoriesAreEqualData : Prop :=
  ∀ m n : Memory, Memory.wf m → Memory.wf n → (∀ a, Memory.read m a = Memory.read n a) → m = n
end

