-- ==== Sys2Proof/Laws/Bits.lean ====
section
/-! SUPPORT. The masks, shifts and joins of the packing expressions as arithmetic (00 R9, 30 R89: `|` joins disjoint bits,
so it equals `+`), and the opcode map as the table of ranges (30 R78). -/

namespace Sys2Proof

theorem and_3 (n : Nat) : n &&& 3 = n % 4 := Nat.and_two_pow_sub_one_eq_mod n 2
theorem and_7 (n : Nat) : n &&& 7 = n % 8 := Nat.and_two_pow_sub_one_eq_mod n 3
theorem and_0x1F (n : Nat) : n &&& 0x1F = n % 32 := Nat.and_two_pow_sub_one_eq_mod n 5
theorem and_0x3F (n : Nat) : n &&& 0x3F = n % 64 := Nat.and_two_pow_sub_one_eq_mod n 6
theorem and_0xFF (n : Nat) : n &&& 0xFF = n % 256 := Nat.and_two_pow_sub_one_eq_mod n 8

theorem byte_and_0x10 : ∀ b : Byte, b.toNat &&& 0x10 = b.toNat / 16 % 2 * 16 := by decide

/-- A mask of bit 4 of a value that is a byte. -/
theorem and_0x10 {n : Nat} (h : n < 256) : n &&& 0x10 = n / 16 % 2 * 16 := by
  have := byte_and_0x10 (BitVec.ofNat 8 n)
  rwa [BitVec.toNat_ofNat, Nat.mod_eq_of_lt h] at this

/-- A field shifted above another is joined to it by addition. -/
theorem shiftLeft_or (a : Nat) {b k : Nat} (h : b < 2 ^ k) : a <<< k ||| b = a * 2 ^ k + b := by
  rw [Nat.shiftLeft_eq, Nat.mul_comm, ← Nat.two_pow_add_eq_or_of_lt h]

theorem or_0x80 {n : Nat} (h : n < 64) : 0x80 ||| n = 0x80 + n := (Nat.two_pow_add_eq_or_of_lt (i := 6) h 2).symm
theorem or_0xC0 {n : Nat} (h : n < 32) : 0xC0 ||| n = 0xC0 + n := (Nat.two_pow_add_eq_or_of_lt (i := 5) h 6).symm
theorem or_0xFC {n : Nat} (h : n < 4) : 0xFC ||| n = 0xFC + n := (Nat.two_pow_add_eq_or_of_lt (i := 2) h 63).symm

/-- The opcode map as ranges of `byte0` (30 R78). -/
theorem kindOf_eq : ∀ b : Byte, kindOf b =
    if b.toNat < 0x80 then .shortMatch
    else if b.toNat < 0xC0 then .mediumMatch
    else if b.toNat < 0xE0 then .longMatch
    else if b.toNat < 0xFC then .rawRun
    else .terminal := by
  decide

end Sys2Proof
end

