-- ==== Sys2Proof/Laws/State.lean ====
section
/-! SUPPORT. One lemma per field per named update: what it sets, and that it leaves the rest. -/

namespace Sys2Proof.Machine

/-! ## exitLoop -/

@[simp] theorem exitLoop_op (s : State) : (exitLoop s).op = s.op := rfl
@[simp] theorem exitLoop_status (s : State) : (exitLoop s).status = s.status := rfl
@[simp] theorem exitLoop_err (s : State) : (exitLoop s).err = s.err := rfl
@[simp] theorem exitLoop_srcLen (s : State) : (exitLoop s).srcLen = s.srcLen := rfl
@[simp] theorem exitLoop_windowBits (s : State) : (exitLoop s).windowBits = s.windowBits := rfl
@[simp] theorem exitLoop_maxHops (s : State) : (exitLoop s).maxHops = s.maxHops := rfl
@[simp] theorem exitLoop_hdrExtLen (s : State) : (exitLoop s).hdrExtLen = s.hdrExtLen := rfl
@[simp] theorem exitLoop_ip (s : State) : (exitLoop s).ip = s.ip := rfl
@[simp] theorem exitLoop_wp (s : State) : (exitLoop s).wp = s.wp := rfl
@[simp] theorem exitLoop_size (s : State) : (exitLoop s).size = s.size := rfl
@[simp] theorem exitLoop_hlen (s : State) : (exitLoop s).hlen = s.hlen := rfl
@[simp] theorem exitLoop_dstate (s : State) : (exitLoop s).dstate = .terminalRead := rfl
@[simp] theorem exitLoop_b0 (s : State) : (exitLoop s).b0 = s.b0 := rfl
@[simp] theorem exitLoop_b1 (s : State) : (exitLoop s).b1 = s.b1 := rfl
@[simp] theorem exitLoop_b2 (s : State) : (exitLoop s).b2 = s.b2 := rfl
@[simp] theorem exitLoop_b3 (s : State) : (exitLoop s).b3 = s.b3 := rfl
@[simp] theorem exitLoop_lit (s : State) : (exitLoop s).lit = s.lit := rfl
@[simp] theorem exitLoop_mlen (s : State) : (exitLoop s).mlen = s.mlen := rfl
@[simp] theorem exitLoop_off (s : State) : (exitLoop s).off = s.off := rfl
@[simp] theorem exitLoop_scan (s : State) : (exitLoop s).scan = s.scan := rfl
@[simp] theorem exitLoop_flushed (s : State) : (exitLoop s).flushed = s.flushed := rfl
@[simp] theorem exitLoop_dlen (s : State) : (exitLoop s).dlen = s.dlen := rfl
@[simp] theorem exitLoop_key (s : State) : (exitLoop s).key = s.key := rfl
@[simp] theorem exitLoop_cand (s : State) : (exitLoop s).cand = s.cand := rfl
@[simp] theorem exitLoop_hops (s : State) : (exitLoop s).hops = s.hops := rfl
@[simp] theorem exitLoop_curLen (s : State) : (exitLoop s).curLen = s.curLen := rfl
@[simp] theorem exitLoop_bestLen (s : State) : (exitLoop s).bestLen = s.bestLen := rfl
@[simp] theorem exitLoop_bestOff (s : State) : (exitLoop s).bestOff = s.bestOff := rfl
@[simp] theorem exitLoop_head (s : State) : (exitLoop s).head = s.head := rfl
@[simp] theorem exitLoop_prev (s : State) : (exitLoop s).prev = s.prev := rfl
@[simp] theorem exitLoop_src (s : State) : (exitLoop s).src = s.src := rfl
@[simp] theorem exitLoop_dst (s : State) : (exitLoop s).dst = s.dst := rfl
@[simp] theorem exitLoop_port (s : State) : (exitLoop s).port = s.port := rfl
@[simp] theorem exitLoop_draw (s : State) : (exitLoop s).draw = s.draw := rfl
@[simp] theorem exitLoop_prevInit (s : State) : (exitLoop s).prevInit = s.prevInit := rfl

/-! ## markDone -/

@[simp] theorem markDone_op (s : State) : (markDone s).op = s.op := rfl
@[simp] theorem markDone_status (s : State) : (markDone s).status = s.status := rfl
@[simp] theorem markDone_err (s : State) : (markDone s).err = s.err := rfl
@[simp] theorem markDone_srcLen (s : State) : (markDone s).srcLen = s.srcLen := rfl
@[simp] theorem markDone_windowBits (s : State) : (markDone s).windowBits = s.windowBits := rfl
@[simp] theorem markDone_maxHops (s : State) : (markDone s).maxHops = s.maxHops := rfl
@[simp] theorem markDone_hdrExtLen (s : State) : (markDone s).hdrExtLen = s.hdrExtLen := rfl
@[simp] theorem markDone_ip (s : State) : (markDone s).ip = s.ip := rfl
@[simp] theorem markDone_wp (s : State) : (markDone s).wp = s.wp := rfl
@[simp] theorem markDone_size (s : State) : (markDone s).size = s.size := rfl
@[simp] theorem markDone_hlen (s : State) : (markDone s).hlen = s.hlen := rfl
@[simp] theorem markDone_dstate (s : State) : (markDone s).dstate = .done := rfl
@[simp] theorem markDone_b0 (s : State) : (markDone s).b0 = s.b0 := rfl
@[simp] theorem markDone_b1 (s : State) : (markDone s).b1 = s.b1 := rfl
@[simp] theorem markDone_b2 (s : State) : (markDone s).b2 = s.b2 := rfl
@[simp] theorem markDone_b3 (s : State) : (markDone s).b3 = s.b3 := rfl
@[simp] theorem markDone_lit (s : State) : (markDone s).lit = s.lit := rfl
@[simp] theorem markDone_mlen (s : State) : (markDone s).mlen = s.mlen := rfl
@[simp] theorem markDone_off (s : State) : (markDone s).off = s.off := rfl
@[simp] theorem markDone_scan (s : State) : (markDone s).scan = s.scan := rfl
@[simp] theorem markDone_flushed (s : State) : (markDone s).flushed = s.flushed := rfl
@[simp] theorem markDone_dlen (s : State) : (markDone s).dlen = s.dlen := rfl
@[simp] theorem markDone_key (s : State) : (markDone s).key = s.key := rfl
@[simp] theorem markDone_cand (s : State) : (markDone s).cand = s.cand := rfl
@[simp] theorem markDone_hops (s : State) : (markDone s).hops = s.hops := rfl
@[simp] theorem markDone_curLen (s : State) : (markDone s).curLen = s.curLen := rfl
@[simp] theorem markDone_bestLen (s : State) : (markDone s).bestLen = s.bestLen := rfl
@[simp] theorem markDone_bestOff (s : State) : (markDone s).bestOff = s.bestOff := rfl
@[simp] theorem markDone_head (s : State) : (markDone s).head = s.head := rfl
@[simp] theorem markDone_prev (s : State) : (markDone s).prev = s.prev := rfl
@[simp] theorem markDone_src (s : State) : (markDone s).src = s.src := rfl
@[simp] theorem markDone_dst (s : State) : (markDone s).dst = s.dst := rfl
@[simp] theorem markDone_port (s : State) : (markDone s).port = s.port := rfl
@[simp] theorem markDone_draw (s : State) : (markDone s).draw = s.draw := rfl
@[simp] theorem markDone_prevInit (s : State) : (markDone s).prevInit = s.prevInit := rfl

/-! ## append -/

@[simp] theorem append_op (v : Byte) (s : State) : (append v s).op = s.op := rfl
@[simp] theorem append_status (v : Byte) (s : State) : (append v s).status = s.status := rfl
@[simp] theorem append_err (v : Byte) (s : State) : (append v s).err = s.err := rfl
@[simp] theorem append_srcLen (v : Byte) (s : State) : (append v s).srcLen = s.srcLen := rfl
@[simp] theorem append_windowBits (v : Byte) (s : State) : (append v s).windowBits = s.windowBits := rfl
@[simp] theorem append_maxHops (v : Byte) (s : State) : (append v s).maxHops = s.maxHops := rfl
@[simp] theorem append_hdrExtLen (v : Byte) (s : State) : (append v s).hdrExtLen = s.hdrExtLen := rfl
@[simp] theorem append_ip (v : Byte) (s : State) : (append v s).ip = s.ip := rfl
@[simp] theorem append_wp (v : Byte) (s : State) : (append v s).wp = s.wp := rfl
@[simp] theorem append_size (v : Byte) (s : State) : (append v s).size = s.size := rfl
@[simp] theorem append_hlen (v : Byte) (s : State) : (append v s).hlen = s.hlen := rfl
@[simp] theorem append_dstate (v : Byte) (s : State) : (append v s).dstate = s.dstate := rfl
@[simp] theorem append_b0 (v : Byte) (s : State) : (append v s).b0 = s.b0 := rfl
@[simp] theorem append_b1 (v : Byte) (s : State) : (append v s).b1 = s.b1 := rfl
@[simp] theorem append_b2 (v : Byte) (s : State) : (append v s).b2 = s.b2 := rfl
@[simp] theorem append_b3 (v : Byte) (s : State) : (append v s).b3 = s.b3 := rfl
@[simp] theorem append_lit (v : Byte) (s : State) : (append v s).lit = s.lit := rfl
@[simp] theorem append_mlen (v : Byte) (s : State) : (append v s).mlen = s.mlen := rfl
@[simp] theorem append_off (v : Byte) (s : State) : (append v s).off = s.off := rfl
@[simp] theorem append_scan (v : Byte) (s : State) : (append v s).scan = s.scan := rfl
@[simp] theorem append_flushed (v : Byte) (s : State) : (append v s).flushed = s.flushed := rfl
@[simp] theorem append_dlen (v : Byte) (s : State) : (append v s).dlen = s.dlen + 1 := rfl
@[simp] theorem append_key (v : Byte) (s : State) : (append v s).key = s.key := rfl
@[simp] theorem append_cand (v : Byte) (s : State) : (append v s).cand = s.cand := rfl
@[simp] theorem append_hops (v : Byte) (s : State) : (append v s).hops = s.hops := rfl
@[simp] theorem append_curLen (v : Byte) (s : State) : (append v s).curLen = s.curLen := rfl
@[simp] theorem append_bestLen (v : Byte) (s : State) : (append v s).bestLen = s.bestLen := rfl
@[simp] theorem append_bestOff (v : Byte) (s : State) : (append v s).bestOff = s.bestOff := rfl
@[simp] theorem append_head (v : Byte) (s : State) : (append v s).head = s.head := rfl
@[simp] theorem append_prev (v : Byte) (s : State) : (append v s).prev = s.prev := rfl
@[simp] theorem append_src (v : Byte) (s : State) : (append v s).src = s.src := rfl
@[simp] theorem append_dst (v : Byte) (s : State) : (append v s).dst = Memory.write s.dst s.dlen v := rfl
@[simp] theorem append_port (v : Byte) (s : State) : (append v s).port = s.port := rfl
@[simp] theorem append_draw (v : Byte) (s : State) : (append v s).draw = s.draw := rfl
@[simp] theorem append_prevInit (v : Byte) (s : State) : (append v s).prevInit = s.prevInit := rfl

/-! ## headWrite -/

@[simp] theorem headWrite_op (k p : Nat) (s : State) : (headWrite k p s).op = s.op := rfl
@[simp] theorem headWrite_status (k p : Nat) (s : State) : (headWrite k p s).status = s.status := rfl
@[simp] theorem headWrite_err (k p : Nat) (s : State) : (headWrite k p s).err = s.err := rfl
@[simp] theorem headWrite_srcLen (k p : Nat) (s : State) : (headWrite k p s).srcLen = s.srcLen := rfl
@[simp] theorem headWrite_windowBits (k p : Nat) (s : State) : (headWrite k p s).windowBits = s.windowBits := rfl
@[simp] theorem headWrite_maxHops (k p : Nat) (s : State) : (headWrite k p s).maxHops = s.maxHops := rfl
@[simp] theorem headWrite_hdrExtLen (k p : Nat) (s : State) : (headWrite k p s).hdrExtLen = s.hdrExtLen := rfl
@[simp] theorem headWrite_ip (k p : Nat) (s : State) : (headWrite k p s).ip = s.ip := rfl
@[simp] theorem headWrite_wp (k p : Nat) (s : State) : (headWrite k p s).wp = s.wp := rfl
@[simp] theorem headWrite_size (k p : Nat) (s : State) : (headWrite k p s).size = s.size := rfl
@[simp] theorem headWrite_hlen (k p : Nat) (s : State) : (headWrite k p s).hlen = s.hlen := rfl
@[simp] theorem headWrite_dstate (k p : Nat) (s : State) : (headWrite k p s).dstate = s.dstate := rfl
@[simp] theorem headWrite_b0 (k p : Nat) (s : State) : (headWrite k p s).b0 = s.b0 := rfl
@[simp] theorem headWrite_b1 (k p : Nat) (s : State) : (headWrite k p s).b1 = s.b1 := rfl
@[simp] theorem headWrite_b2 (k p : Nat) (s : State) : (headWrite k p s).b2 = s.b2 := rfl
@[simp] theorem headWrite_b3 (k p : Nat) (s : State) : (headWrite k p s).b3 = s.b3 := rfl
@[simp] theorem headWrite_lit (k p : Nat) (s : State) : (headWrite k p s).lit = s.lit := rfl
@[simp] theorem headWrite_mlen (k p : Nat) (s : State) : (headWrite k p s).mlen = s.mlen := rfl
@[simp] theorem headWrite_off (k p : Nat) (s : State) : (headWrite k p s).off = s.off := rfl
@[simp] theorem headWrite_scan (k p : Nat) (s : State) : (headWrite k p s).scan = s.scan := rfl
@[simp] theorem headWrite_flushed (k p : Nat) (s : State) : (headWrite k p s).flushed = s.flushed := rfl
@[simp] theorem headWrite_dlen (k p : Nat) (s : State) : (headWrite k p s).dlen = s.dlen := rfl
@[simp] theorem headWrite_key (k p : Nat) (s : State) : (headWrite k p s).key = s.key := rfl
@[simp] theorem headWrite_cand (k p : Nat) (s : State) : (headWrite k p s).cand = s.cand := rfl
@[simp] theorem headWrite_hops (k p : Nat) (s : State) : (headWrite k p s).hops = s.hops := rfl
@[simp] theorem headWrite_curLen (k p : Nat) (s : State) : (headWrite k p s).curLen = s.curLen := rfl
@[simp] theorem headWrite_bestLen (k p : Nat) (s : State) : (headWrite k p s).bestLen = s.bestLen := rfl
@[simp] theorem headWrite_bestOff (k p : Nat) (s : State) : (headWrite k p s).bestOff = s.bestOff := rfl
@[simp] theorem headWrite_head (k p : Nat) (s : State) : (headWrite k p s).head = Sparse.put s.head k p := rfl
@[simp] theorem headWrite_prev (k p : Nat) (s : State) : (headWrite k p s).prev = s.prev := rfl
@[simp] theorem headWrite_src (k p : Nat) (s : State) : (headWrite k p s).src = s.src := rfl
@[simp] theorem headWrite_dst (k p : Nat) (s : State) : (headWrite k p s).dst = s.dst := rfl
@[simp] theorem headWrite_port (k p : Nat) (s : State) : (headWrite k p s).port = s.port := rfl
@[simp] theorem headWrite_draw (k p : Nat) (s : State) : (headWrite k p s).draw = s.draw := rfl
@[simp] theorem headWrite_prevInit (k p : Nat) (s : State) : (headWrite k p s).prevInit = s.prevInit := rfl

/-! ## prevWrite -/

@[simp] theorem prevWrite_op (i : Nat) (e : Option Nat) (s : State) : (prevWrite i e s).op = s.op := rfl
@[simp] theorem prevWrite_status (i : Nat) (e : Option Nat) (s : State) : (prevWrite i e s).status = s.status := rfl
@[simp] theorem prevWrite_err (i : Nat) (e : Option Nat) (s : State) : (prevWrite i e s).err = s.err := rfl
@[simp] theorem prevWrite_srcLen (i : Nat) (e : Option Nat) (s : State) : (prevWrite i e s).srcLen = s.srcLen := rfl
@[simp] theorem prevWrite_windowBits (i : Nat) (e : Option Nat) (s : State) : (prevWrite i e s).windowBits = s.windowBits := rfl
@[simp] theorem prevWrite_maxHops (i : Nat) (e : Option Nat) (s : State) : (prevWrite i e s).maxHops = s.maxHops := rfl
@[simp] theorem prevWrite_hdrExtLen (i : Nat) (e : Option Nat) (s : State) : (prevWrite i e s).hdrExtLen = s.hdrExtLen := rfl
@[simp] theorem prevWrite_ip (i : Nat) (e : Option Nat) (s : State) : (prevWrite i e s).ip = s.ip := rfl
@[simp] theorem prevWrite_wp (i : Nat) (e : Option Nat) (s : State) : (prevWrite i e s).wp = s.wp := rfl
@[simp] theorem prevWrite_size (i : Nat) (e : Option Nat) (s : State) : (prevWrite i e s).size = s.size := rfl
@[simp] theorem prevWrite_hlen (i : Nat) (e : Option Nat) (s : State) : (prevWrite i e s).hlen = s.hlen := rfl
@[simp] theorem prevWrite_dstate (i : Nat) (e : Option Nat) (s : State) : (prevWrite i e s).dstate = s.dstate := rfl
@[simp] theorem prevWrite_b0 (i : Nat) (e : Option Nat) (s : State) : (prevWrite i e s).b0 = s.b0 := rfl
@[simp] theorem prevWrite_b1 (i : Nat) (e : Option Nat) (s : State) : (prevWrite i e s).b1 = s.b1 := rfl
@[simp] theorem prevWrite_b2 (i : Nat) (e : Option Nat) (s : State) : (prevWrite i e s).b2 = s.b2 := rfl
@[simp] theorem prevWrite_b3 (i : Nat) (e : Option Nat) (s : State) : (prevWrite i e s).b3 = s.b3 := rfl
@[simp] theorem prevWrite_lit (i : Nat) (e : Option Nat) (s : State) : (prevWrite i e s).lit = s.lit := rfl
@[simp] theorem prevWrite_mlen (i : Nat) (e : Option Nat) (s : State) : (prevWrite i e s).mlen = s.mlen := rfl
@[simp] theorem prevWrite_off (i : Nat) (e : Option Nat) (s : State) : (prevWrite i e s).off = s.off := rfl
@[simp] theorem prevWrite_scan (i : Nat) (e : Option Nat) (s : State) : (prevWrite i e s).scan = s.scan := rfl
@[simp] theorem prevWrite_flushed (i : Nat) (e : Option Nat) (s : State) : (prevWrite i e s).flushed = s.flushed := rfl
@[simp] theorem prevWrite_dlen (i : Nat) (e : Option Nat) (s : State) : (prevWrite i e s).dlen = s.dlen := rfl
@[simp] theorem prevWrite_key (i : Nat) (e : Option Nat) (s : State) : (prevWrite i e s).key = s.key := rfl
@[simp] theorem prevWrite_cand (i : Nat) (e : Option Nat) (s : State) : (prevWrite i e s).cand = s.cand := rfl
@[simp] theorem prevWrite_hops (i : Nat) (e : Option Nat) (s : State) : (prevWrite i e s).hops = s.hops := rfl
@[simp] theorem prevWrite_curLen (i : Nat) (e : Option Nat) (s : State) : (prevWrite i e s).curLen = s.curLen := rfl
@[simp] theorem prevWrite_bestLen (i : Nat) (e : Option Nat) (s : State) : (prevWrite i e s).bestLen = s.bestLen := rfl
@[simp] theorem prevWrite_bestOff (i : Nat) (e : Option Nat) (s : State) : (prevWrite i e s).bestOff = s.bestOff := rfl
@[simp] theorem prevWrite_head (i : Nat) (e : Option Nat) (s : State) : (prevWrite i e s).head = s.head := rfl
@[simp] theorem prevWrite_prev (i : Nat) (e : Option Nat) (s : State) : (prevWrite i e s).prev = Sparse.put s.prev i e := rfl
@[simp] theorem prevWrite_src (i : Nat) (e : Option Nat) (s : State) : (prevWrite i e s).src = s.src := rfl
@[simp] theorem prevWrite_dst (i : Nat) (e : Option Nat) (s : State) : (prevWrite i e s).dst = s.dst := rfl
@[simp] theorem prevWrite_port (i : Nat) (e : Option Nat) (s : State) : (prevWrite i e s).port = s.port := rfl
@[simp] theorem prevWrite_draw (i : Nat) (e : Option Nat) (s : State) : (prevWrite i e s).draw = s.draw := rfl
@[simp] theorem prevWrite_prevInit (i : Nat) (e : Option Nat) (s : State) : (prevWrite i e s).prevInit = s.prevInit := rfl

/-! ## computeKey -/

@[simp] theorem computeKey_op (s : State) : (computeKey s).op = s.op := rfl
@[simp] theorem computeKey_status (s : State) : (computeKey s).status = s.status := rfl
@[simp] theorem computeKey_err (s : State) : (computeKey s).err = s.err := rfl
@[simp] theorem computeKey_srcLen (s : State) : (computeKey s).srcLen = s.srcLen := rfl
@[simp] theorem computeKey_windowBits (s : State) : (computeKey s).windowBits = s.windowBits := rfl
@[simp] theorem computeKey_maxHops (s : State) : (computeKey s).maxHops = s.maxHops := rfl
@[simp] theorem computeKey_hdrExtLen (s : State) : (computeKey s).hdrExtLen = s.hdrExtLen := rfl
@[simp] theorem computeKey_ip (s : State) : (computeKey s).ip = s.ip := rfl
@[simp] theorem computeKey_wp (s : State) : (computeKey s).wp = s.wp := rfl
@[simp] theorem computeKey_size (s : State) : (computeKey s).size = s.size := rfl
@[simp] theorem computeKey_hlen (s : State) : (computeKey s).hlen = s.hlen := rfl
@[simp] theorem computeKey_dstate (s : State) : (computeKey s).dstate = s.dstate := rfl
@[simp] theorem computeKey_b0 (s : State) : (computeKey s).b0 = s.b0 := rfl
@[simp] theorem computeKey_b1 (s : State) : (computeKey s).b1 = s.b1 := rfl
@[simp] theorem computeKey_b2 (s : State) : (computeKey s).b2 = s.b2 := rfl
@[simp] theorem computeKey_b3 (s : State) : (computeKey s).b3 = s.b3 := rfl
@[simp] theorem computeKey_lit (s : State) : (computeKey s).lit = s.lit := rfl
@[simp] theorem computeKey_mlen (s : State) : (computeKey s).mlen = s.mlen := rfl
@[simp] theorem computeKey_off (s : State) : (computeKey s).off = s.off := rfl
@[simp] theorem computeKey_scan (s : State) : (computeKey s).scan = s.scan := rfl
@[simp] theorem computeKey_flushed (s : State) : (computeKey s).flushed = s.flushed := rfl
@[simp] theorem computeKey_dlen (s : State) : (computeKey s).dlen = s.dlen := rfl
@[simp] theorem computeKey_key (s : State) : (computeKey s).key = keyAt s.src s.scan := rfl
@[simp] theorem computeKey_cand (s : State) : (computeKey s).cand = s.cand := rfl
@[simp] theorem computeKey_hops (s : State) : (computeKey s).hops = s.hops := rfl
@[simp] theorem computeKey_curLen (s : State) : (computeKey s).curLen = s.curLen := rfl
@[simp] theorem computeKey_bestLen (s : State) : (computeKey s).bestLen = s.bestLen := rfl
@[simp] theorem computeKey_bestOff (s : State) : (computeKey s).bestOff = s.bestOff := rfl
@[simp] theorem computeKey_head (s : State) : (computeKey s).head = s.head := rfl
@[simp] theorem computeKey_prev (s : State) : (computeKey s).prev = s.prev := rfl
@[simp] theorem computeKey_src (s : State) : (computeKey s).src = s.src := rfl
@[simp] theorem computeKey_dst (s : State) : (computeKey s).dst = s.dst := rfl
@[simp] theorem computeKey_port (s : State) : (computeKey s).port = s.port := rfl
@[simp] theorem computeKey_draw (s : State) : (computeKey s).draw = s.draw := rfl
@[simp] theorem computeKey_prevInit (s : State) : (computeKey s).prevInit = s.prevInit := rfl

/-! ## clamp -/

@[simp] theorem clamp_op (s : State) : (clamp s).op = s.op := rfl
@[simp] theorem clamp_status (s : State) : (clamp s).status = s.status := rfl
@[simp] theorem clamp_err (s : State) : (clamp s).err = s.err := rfl
@[simp] theorem clamp_srcLen (s : State) : (clamp s).srcLen = s.srcLen := rfl
@[simp] theorem clamp_windowBits (s : State) : (clamp s).windowBits = s.windowBits := rfl
@[simp] theorem clamp_maxHops (s : State) : (clamp s).maxHops = s.maxHops := rfl
@[simp] theorem clamp_hdrExtLen (s : State) : (clamp s).hdrExtLen = s.hdrExtLen := rfl
@[simp] theorem clamp_ip (s : State) : (clamp s).ip = s.ip := rfl
@[simp] theorem clamp_wp (s : State) : (clamp s).wp = s.wp := rfl
@[simp] theorem clamp_size (s : State) : (clamp s).size = s.size := rfl
@[simp] theorem clamp_hlen (s : State) : (clamp s).hlen = s.hlen := rfl
@[simp] theorem clamp_dstate (s : State) : (clamp s).dstate = s.dstate := rfl
@[simp] theorem clamp_b0 (s : State) : (clamp s).b0 = s.b0 := rfl
@[simp] theorem clamp_b1 (s : State) : (clamp s).b1 = s.b1 := rfl
@[simp] theorem clamp_b2 (s : State) : (clamp s).b2 = s.b2 := rfl
@[simp] theorem clamp_b3 (s : State) : (clamp s).b3 = s.b3 := rfl
@[simp] theorem clamp_lit (s : State) : (clamp s).lit = s.lit := rfl
@[simp] theorem clamp_mlen (s : State) : (clamp s).mlen = s.mlen := rfl
@[simp] theorem clamp_off (s : State) : (clamp s).off = s.off := rfl
@[simp] theorem clamp_scan (s : State) : (clamp s).scan = s.scan := rfl
@[simp] theorem clamp_flushed (s : State) : (clamp s).flushed = s.flushed := rfl
@[simp] theorem clamp_dlen (s : State) : (clamp s).dlen = s.dlen := rfl
@[simp] theorem clamp_key (s : State) : (clamp s).key = s.key := rfl
@[simp] theorem clamp_cand (s : State) : (clamp s).cand = s.cand := rfl
@[simp] theorem clamp_hops (s : State) : (clamp s).hops = s.hops := rfl
@[simp] theorem clamp_curLen (s : State) : (clamp s).curLen = s.curLen := rfl
@[simp] theorem clamp_bestLen (s : State) : (clamp s).bestLen = min s.bestLen (s.srcLen - s.scan) := rfl
@[simp] theorem clamp_bestOff (s : State) : (clamp s).bestOff = s.bestOff := rfl
@[simp] theorem clamp_head (s : State) : (clamp s).head = s.head := rfl
@[simp] theorem clamp_prev (s : State) : (clamp s).prev = s.prev := rfl
@[simp] theorem clamp_src (s : State) : (clamp s).src = s.src := rfl
@[simp] theorem clamp_dst (s : State) : (clamp s).dst = s.dst := rfl
@[simp] theorem clamp_port (s : State) : (clamp s).port = s.port := rfl
@[simp] theorem clamp_draw (s : State) : (clamp s).draw = s.draw := rfl
@[simp] theorem clamp_prevInit (s : State) : (clamp s).prevInit = s.prevInit := rfl

/-! ## complete -/

@[simp] theorem complete_op (s : State) : (complete s).op = .idle := rfl
@[simp] theorem complete_status (s : State) : (complete s).status = .done := rfl
@[simp] theorem complete_err (s : State) : (complete s).err = none := rfl
@[simp] theorem complete_srcLen (s : State) : (complete s).srcLen = s.srcLen := rfl
@[simp] theorem complete_windowBits (s : State) : (complete s).windowBits = s.windowBits := rfl
@[simp] theorem complete_maxHops (s : State) : (complete s).maxHops = s.maxHops := rfl
@[simp] theorem complete_hdrExtLen (s : State) : (complete s).hdrExtLen = s.hdrExtLen := rfl
@[simp] theorem complete_ip (s : State) : (complete s).ip = s.ip := rfl
@[simp] theorem complete_wp (s : State) : (complete s).wp = s.wp := rfl
@[simp] theorem complete_size (s : State) : (complete s).size = s.size := rfl
@[simp] theorem complete_hlen (s : State) : (complete s).hlen = s.hlen := rfl
@[simp] theorem complete_dstate (s : State) : (complete s).dstate = s.dstate := rfl
@[simp] theorem complete_b0 (s : State) : (complete s).b0 = s.b0 := rfl
@[simp] theorem complete_b1 (s : State) : (complete s).b1 = s.b1 := rfl
@[simp] theorem complete_b2 (s : State) : (complete s).b2 = s.b2 := rfl
@[simp] theorem complete_b3 (s : State) : (complete s).b3 = s.b3 := rfl
@[simp] theorem complete_lit (s : State) : (complete s).lit = s.lit := rfl
@[simp] theorem complete_mlen (s : State) : (complete s).mlen = s.mlen := rfl
@[simp] theorem complete_off (s : State) : (complete s).off = s.off := rfl
@[simp] theorem complete_scan (s : State) : (complete s).scan = s.scan := rfl
@[simp] theorem complete_flushed (s : State) : (complete s).flushed = s.flushed := rfl
@[simp] theorem complete_dlen (s : State) : (complete s).dlen = s.dlen := rfl
@[simp] theorem complete_key (s : State) : (complete s).key = s.key := rfl
@[simp] theorem complete_cand (s : State) : (complete s).cand = s.cand := rfl
@[simp] theorem complete_hops (s : State) : (complete s).hops = s.hops := rfl
@[simp] theorem complete_curLen (s : State) : (complete s).curLen = s.curLen := rfl
@[simp] theorem complete_bestLen (s : State) : (complete s).bestLen = s.bestLen := rfl
@[simp] theorem complete_bestOff (s : State) : (complete s).bestOff = s.bestOff := rfl
@[simp] theorem complete_head (s : State) : (complete s).head = s.head := rfl
@[simp] theorem complete_prev (s : State) : (complete s).prev = s.prev := rfl
@[simp] theorem complete_src (s : State) : (complete s).src = s.src := rfl
@[simp] theorem complete_dst (s : State) : (complete s).dst = s.dst := rfl
@[simp] theorem complete_port (s : State) : (complete s).port = s.port := rfl
@[simp] theorem complete_draw (s : State) : (complete s).draw = s.draw := rfl
@[simp] theorem complete_prevInit (s : State) : (complete s).prevInit = s.prevInit := rfl

/-! ## dropTokenTemps -/

@[simp] theorem dropTokenTemps_op (s : State) : (dropTokenTemps s).op = s.op := rfl
@[simp] theorem dropTokenTemps_status (s : State) : (dropTokenTemps s).status = s.status := rfl
@[simp] theorem dropTokenTemps_err (s : State) : (dropTokenTemps s).err = s.err := rfl
@[simp] theorem dropTokenTemps_srcLen (s : State) : (dropTokenTemps s).srcLen = s.srcLen := rfl
@[simp] theorem dropTokenTemps_windowBits (s : State) : (dropTokenTemps s).windowBits = s.windowBits := rfl
@[simp] theorem dropTokenTemps_maxHops (s : State) : (dropTokenTemps s).maxHops = s.maxHops := rfl
@[simp] theorem dropTokenTemps_hdrExtLen (s : State) : (dropTokenTemps s).hdrExtLen = s.hdrExtLen := rfl
@[simp] theorem dropTokenTemps_ip (s : State) : (dropTokenTemps s).ip = s.ip := rfl
@[simp] theorem dropTokenTemps_wp (s : State) : (dropTokenTemps s).wp = s.wp := rfl
@[simp] theorem dropTokenTemps_size (s : State) : (dropTokenTemps s).size = s.size := rfl
@[simp] theorem dropTokenTemps_hlen (s : State) : (dropTokenTemps s).hlen = s.hlen := rfl
@[simp] theorem dropTokenTemps_dstate (s : State) : (dropTokenTemps s).dstate = s.dstate := rfl
@[simp] theorem dropTokenTemps_b0 (s : State) : (dropTokenTemps s).b0 = Config.freeByte s.draw 0 := rfl
@[simp] theorem dropTokenTemps_b1 (s : State) : (dropTokenTemps s).b1 = Config.freeByte s.draw 1 := rfl
@[simp] theorem dropTokenTemps_b2 (s : State) : (dropTokenTemps s).b2 = Config.freeByte s.draw 2 := rfl
@[simp] theorem dropTokenTemps_b3 (s : State) : (dropTokenTemps s).b3 = Config.freeByte s.draw 3 := rfl
@[simp] theorem dropTokenTemps_lit (s : State) : (dropTokenTemps s).lit = freeReg s.draw 9 := rfl
@[simp] theorem dropTokenTemps_mlen (s : State) : (dropTokenTemps s).mlen = freeReg s.draw 10 := rfl
@[simp] theorem dropTokenTemps_off (s : State) : (dropTokenTemps s).off = freeReg s.draw 11 := rfl
@[simp] theorem dropTokenTemps_scan (s : State) : (dropTokenTemps s).scan = s.scan := rfl
@[simp] theorem dropTokenTemps_flushed (s : State) : (dropTokenTemps s).flushed = s.flushed := rfl
@[simp] theorem dropTokenTemps_dlen (s : State) : (dropTokenTemps s).dlen = s.dlen := rfl
@[simp] theorem dropTokenTemps_key (s : State) : (dropTokenTemps s).key = s.key := rfl
@[simp] theorem dropTokenTemps_cand (s : State) : (dropTokenTemps s).cand = s.cand := rfl
@[simp] theorem dropTokenTemps_hops (s : State) : (dropTokenTemps s).hops = s.hops := rfl
@[simp] theorem dropTokenTemps_curLen (s : State) : (dropTokenTemps s).curLen = s.curLen := rfl
@[simp] theorem dropTokenTemps_bestLen (s : State) : (dropTokenTemps s).bestLen = s.bestLen := rfl
@[simp] theorem dropTokenTemps_bestOff (s : State) : (dropTokenTemps s).bestOff = s.bestOff := rfl
@[simp] theorem dropTokenTemps_head (s : State) : (dropTokenTemps s).head = s.head := rfl
@[simp] theorem dropTokenTemps_prev (s : State) : (dropTokenTemps s).prev = s.prev := rfl
@[simp] theorem dropTokenTemps_src (s : State) : (dropTokenTemps s).src = s.src := rfl
@[simp] theorem dropTokenTemps_dst (s : State) : (dropTokenTemps s).dst = s.dst := rfl
@[simp] theorem dropTokenTemps_port (s : State) : (dropTokenTemps s).port = s.port := rfl
@[simp] theorem dropTokenTemps_draw (s : State) : (dropTokenTemps s).draw = s.draw + 1 := rfl
@[simp] theorem dropTokenTemps_prevInit (s : State) : (dropTokenTemps s).prevInit = s.prevInit := rfl

/-! ## dropFinderTemps -/

@[simp] theorem dropFinderTemps_op (s : State) : (dropFinderTemps s).op = s.op := rfl
@[simp] theorem dropFinderTemps_status (s : State) : (dropFinderTemps s).status = s.status := rfl
@[simp] theorem dropFinderTemps_err (s : State) : (dropFinderTemps s).err = s.err := rfl
@[simp] theorem dropFinderTemps_srcLen (s : State) : (dropFinderTemps s).srcLen = s.srcLen := rfl
@[simp] theorem dropFinderTemps_windowBits (s : State) : (dropFinderTemps s).windowBits = s.windowBits := rfl
@[simp] theorem dropFinderTemps_maxHops (s : State) : (dropFinderTemps s).maxHops = s.maxHops := rfl
@[simp] theorem dropFinderTemps_hdrExtLen (s : State) : (dropFinderTemps s).hdrExtLen = s.hdrExtLen := rfl
@[simp] theorem dropFinderTemps_ip (s : State) : (dropFinderTemps s).ip = s.ip := rfl
@[simp] theorem dropFinderTemps_wp (s : State) : (dropFinderTemps s).wp = s.wp := rfl
@[simp] theorem dropFinderTemps_size (s : State) : (dropFinderTemps s).size = s.size := rfl
@[simp] theorem dropFinderTemps_hlen (s : State) : (dropFinderTemps s).hlen = s.hlen := rfl
@[simp] theorem dropFinderTemps_dstate (s : State) : (dropFinderTemps s).dstate = s.dstate := rfl
@[simp] theorem dropFinderTemps_b0 (s : State) : (dropFinderTemps s).b0 = s.b0 := rfl
@[simp] theorem dropFinderTemps_b1 (s : State) : (dropFinderTemps s).b1 = s.b1 := rfl
@[simp] theorem dropFinderTemps_b2 (s : State) : (dropFinderTemps s).b2 = s.b2 := rfl
@[simp] theorem dropFinderTemps_b3 (s : State) : (dropFinderTemps s).b3 = s.b3 := rfl
@[simp] theorem dropFinderTemps_lit (s : State) : (dropFinderTemps s).lit = freeReg s.draw 9 := rfl
@[simp] theorem dropFinderTemps_mlen (s : State) : (dropFinderTemps s).mlen = s.mlen := rfl
@[simp] theorem dropFinderTemps_off (s : State) : (dropFinderTemps s).off = s.off := rfl
@[simp] theorem dropFinderTemps_scan (s : State) : (dropFinderTemps s).scan = s.scan := rfl
@[simp] theorem dropFinderTemps_flushed (s : State) : (dropFinderTemps s).flushed = s.flushed := rfl
@[simp] theorem dropFinderTemps_dlen (s : State) : (dropFinderTemps s).dlen = s.dlen := rfl
@[simp] theorem dropFinderTemps_key (s : State) : (dropFinderTemps s).key = freeReg s.draw 12 := rfl
@[simp] theorem dropFinderTemps_cand (s : State) : (dropFinderTemps s).cand = Config.freeCand s.draw := rfl
@[simp] theorem dropFinderTemps_hops (s : State) : (dropFinderTemps s).hops = freeReg s.draw 13 := rfl
@[simp] theorem dropFinderTemps_curLen (s : State) : (dropFinderTemps s).curLen = freeReg s.draw 14 := rfl
@[simp] theorem dropFinderTemps_bestLen (s : State) : (dropFinderTemps s).bestLen = freeReg s.draw 15 := rfl
@[simp] theorem dropFinderTemps_bestOff (s : State) : (dropFinderTemps s).bestOff = freeReg s.draw 16 := rfl
@[simp] theorem dropFinderTemps_head (s : State) : (dropFinderTemps s).head = s.head := rfl
@[simp] theorem dropFinderTemps_prev (s : State) : (dropFinderTemps s).prev = s.prev := rfl
@[simp] theorem dropFinderTemps_src (s : State) : (dropFinderTemps s).src = s.src := rfl
@[simp] theorem dropFinderTemps_dst (s : State) : (dropFinderTemps s).dst = s.dst := rfl
@[simp] theorem dropFinderTemps_port (s : State) : (dropFinderTemps s).port = s.port := rfl
@[simp] theorem dropFinderTemps_draw (s : State) : (dropFinderTemps s).draw = s.draw + 1 := rfl
@[simp] theorem dropFinderTemps_prevInit (s : State) : (dropFinderTemps s).prevInit = s.prevInit := rfl

/-! ## endPosition -/

@[simp] theorem endPosition_op (s : State) : (endPosition s).op = s.op := rfl
@[simp] theorem endPosition_status (s : State) : (endPosition s).status = s.status := rfl
@[simp] theorem endPosition_err (s : State) : (endPosition s).err = s.err := rfl
@[simp] theorem endPosition_srcLen (s : State) : (endPosition s).srcLen = s.srcLen := rfl
@[simp] theorem endPosition_windowBits (s : State) : (endPosition s).windowBits = s.windowBits := rfl
@[simp] theorem endPosition_maxHops (s : State) : (endPosition s).maxHops = s.maxHops := rfl
@[simp] theorem endPosition_hdrExtLen (s : State) : (endPosition s).hdrExtLen = s.hdrExtLen := rfl
@[simp] theorem endPosition_ip (s : State) : (endPosition s).ip = s.ip := rfl
@[simp] theorem endPosition_wp (s : State) : (endPosition s).wp = s.wp := rfl
@[simp] theorem endPosition_size (s : State) : (endPosition s).size = s.size := rfl
@[simp] theorem endPosition_hlen (s : State) : (endPosition s).hlen = s.hlen := rfl
@[simp] theorem endPosition_dstate (s : State) : (endPosition s).dstate = s.dstate := rfl
@[simp] theorem endPosition_b0 (s : State) : (endPosition s).b0 = s.b0 := rfl
@[simp] theorem endPosition_b1 (s : State) : (endPosition s).b1 = s.b1 := rfl
@[simp] theorem endPosition_b2 (s : State) : (endPosition s).b2 = s.b2 := rfl
@[simp] theorem endPosition_b3 (s : State) : (endPosition s).b3 = s.b3 := rfl
@[simp] theorem endPosition_lit (s : State) : (endPosition s).lit = freeReg s.draw 9 := rfl
@[simp] theorem endPosition_mlen (s : State) : (endPosition s).mlen = s.mlen := rfl
@[simp] theorem endPosition_off (s : State) : (endPosition s).off = s.off := rfl
@[simp] theorem endPosition_scan (s : State) : (endPosition s).scan = s.scan + 1 := rfl
@[simp] theorem endPosition_flushed (s : State) : (endPosition s).flushed = s.flushed := rfl
@[simp] theorem endPosition_dlen (s : State) : (endPosition s).dlen = s.dlen := rfl
@[simp] theorem endPosition_key (s : State) : (endPosition s).key = freeReg s.draw 12 := rfl
@[simp] theorem endPosition_cand (s : State) : (endPosition s).cand = Config.freeCand s.draw := rfl
@[simp] theorem endPosition_hops (s : State) : (endPosition s).hops = freeReg s.draw 13 := rfl
@[simp] theorem endPosition_curLen (s : State) : (endPosition s).curLen = freeReg s.draw 14 := rfl
@[simp] theorem endPosition_bestLen (s : State) : (endPosition s).bestLen = freeReg s.draw 15 := rfl
@[simp] theorem endPosition_bestOff (s : State) : (endPosition s).bestOff = freeReg s.draw 16 := rfl
@[simp] theorem endPosition_head (s : State) : (endPosition s).head = s.head := rfl
@[simp] theorem endPosition_prev (s : State) : (endPosition s).prev = s.prev := rfl
@[simp] theorem endPosition_src (s : State) : (endPosition s).src = s.src := rfl
@[simp] theorem endPosition_dst (s : State) : (endPosition s).dst = s.dst := rfl
@[simp] theorem endPosition_port (s : State) : (endPosition s).port = s.port := rfl
@[simp] theorem endPosition_draw (s : State) : (endPosition s).draw = s.draw + 1 := rfl
@[simp] theorem endPosition_prevInit (s : State) : (endPosition s).prevInit = s.prevInit := rfl

/-! ## raise: what is known after a failure -/

@[simp] theorem raise_op (e : Failure) (s : State) : (raise e s).op = .idle := rfl
@[simp] theorem raise_status (e : Failure) (s : State) : (raise e s).status = .failed := rfl
@[simp] theorem raise_err (e : Failure) (s : State) : (raise e s).err = some e := rfl
@[simp] theorem raise_hdrExtLen (e : Failure) (s : State) : (raise e s).hdrExtLen = s.hdrExtLen := rfl
@[simp] theorem raise_head (e : Failure) (s : State) : (raise e s).head = headOfEntries (Config.freeHead s.draw) := rfl
@[simp] theorem raise_prev (e : Failure) (s : State) : (raise e s).prev = [] := rfl
@[simp] theorem raise_src (e : Failure) (s : State) : (raise e s).src = s.src := rfl
@[simp] theorem raise_dst (e : Failure) (s : State) : (raise e s).dst = Memory.ofCells (Config.freeDst s.draw) := rfl
@[simp] theorem raise_port (e : Failure) (s : State) : (raise e s).port = s.port := rfl
@[simp] theorem raise_draw (e : Failure) (s : State) : (raise e s).draw = s.draw + 1 := rfl
@[simp] theorem raise_prevInit (e : Failure) (s : State) : (raise e s).prevInit = s.draw := rfl

/-! ## insertPosition -/

@[simp] theorem insertPosition_op (s : State) : (insertPosition s).op = s.op := rfl
@[simp] theorem insertPosition_status (s : State) : (insertPosition s).status = s.status := rfl
@[simp] theorem insertPosition_err (s : State) : (insertPosition s).err = s.err := rfl
@[simp] theorem insertPosition_srcLen (s : State) : (insertPosition s).srcLen = s.srcLen := rfl
@[simp] theorem insertPosition_windowBits (s : State) : (insertPosition s).windowBits = s.windowBits := rfl
@[simp] theorem insertPosition_maxHops (s : State) : (insertPosition s).maxHops = s.maxHops := rfl
@[simp] theorem insertPosition_hdrExtLen (s : State) : (insertPosition s).hdrExtLen = s.hdrExtLen := rfl
@[simp] theorem insertPosition_ip (s : State) : (insertPosition s).ip = s.ip := rfl
@[simp] theorem insertPosition_wp (s : State) : (insertPosition s).wp = s.wp := rfl
@[simp] theorem insertPosition_size (s : State) : (insertPosition s).size = s.size := rfl
@[simp] theorem insertPosition_hlen (s : State) : (insertPosition s).hlen = s.hlen := rfl
@[simp] theorem insertPosition_dstate (s : State) : (insertPosition s).dstate = s.dstate := rfl
@[simp] theorem insertPosition_b0 (s : State) : (insertPosition s).b0 = s.b0 := rfl
@[simp] theorem insertPosition_b1 (s : State) : (insertPosition s).b1 = s.b1 := rfl
@[simp] theorem insertPosition_b2 (s : State) : (insertPosition s).b2 = s.b2 := rfl
@[simp] theorem insertPosition_b3 (s : State) : (insertPosition s).b3 = s.b3 := rfl
@[simp] theorem insertPosition_lit (s : State) : (insertPosition s).lit = s.lit := rfl
@[simp] theorem insertPosition_mlen (s : State) : (insertPosition s).mlen = s.mlen := rfl
@[simp] theorem insertPosition_off (s : State) : (insertPosition s).off = s.off := rfl
@[simp] theorem insertPosition_scan (s : State) : (insertPosition s).scan = s.scan := rfl
@[simp] theorem insertPosition_flushed (s : State) : (insertPosition s).flushed = s.flushed := rfl
@[simp] theorem insertPosition_dlen (s : State) : (insertPosition s).dlen = s.dlen := rfl
@[simp] theorem insertPosition_key (s : State) : (insertPosition s).key = s.key := rfl
@[simp] theorem insertPosition_cand (s : State) : (insertPosition s).cand = headRead s s.key := rfl
@[simp] theorem insertPosition_hops (s : State) : (insertPosition s).hops = s.hops := rfl
@[simp] theorem insertPosition_curLen (s : State) : (insertPosition s).curLen = s.curLen := rfl
@[simp] theorem insertPosition_bestLen (s : State) : (insertPosition s).bestLen = s.bestLen := rfl
@[simp] theorem insertPosition_bestOff (s : State) : (insertPosition s).bestOff = s.bestOff := rfl
@[simp] theorem insertPosition_head (s : State) : (insertPosition s).head = Sparse.put s.head s.key s.scan := rfl
@[simp] theorem insertPosition_prev (s : State) : (insertPosition s).prev = Sparse.put s.prev (s.scan % window s) (headRead s s.key) := rfl
@[simp] theorem insertPosition_src (s : State) : (insertPosition s).src = s.src := rfl
@[simp] theorem insertPosition_dst (s : State) : (insertPosition s).dst = s.dst := rfl
@[simp] theorem insertPosition_port (s : State) : (insertPosition s).port = s.port := rfl
@[simp] theorem insertPosition_draw (s : State) : (insertPosition s).draw = s.draw := rfl
@[simp] theorem insertPosition_prevInit (s : State) : (insertPosition s).prevInit = s.prevInit := rfl

end Sys2Proof.Machine
end

