-- ==== Sys2Proof/Laws/Memory.lean ====
section
/-! SUPPORT. Lists of index and entry pairs, the byte memory, slices, and appending: read after write, canonical form,
and which indices are listed. -/

namespace Sys2Proof.Machine

variable {α : Type}

/-! ## Lists of index and entry pairs -/

@[simp] theorem Sparse.look_nil (a : Nat) : Sparse.look ([] : List (Nat × α)) a = none := rfl

theorem Sparse.look_cons (c : Nat × α) (r : List (Nat × α)) (a : Nat) :
    Sparse.look (c :: r) a = if a = c.1 then some c.2 else Sparse.look r a := rfl

/-- Read after write, same index. -/
@[simp] theorem Sparse.look_put_same (m : List (Nat × α)) (a : Nat) (v : α) :
    Sparse.look (Sparse.put m a v) a = some v := by
  induction m with
  | nil => simp [Sparse.put, Sparse.look_cons]
  | cons c r ih =>
    simp only [Sparse.put]
    split
    · simp [Sparse.look_cons]
    · split
      · simp [Sparse.look_cons]
      · rename_i h
        rw [Sparse.look_cons, if_neg h, ih]

/-- Read after write, another index. -/
theorem Sparse.look_put_ne (m : List (Nat × α)) {a b : Nat} (v : α) (h : b ≠ a) :
    Sparse.look (Sparse.put m a v) b = Sparse.look m b := by
  induction m with
  | nil => simp [Sparse.put, Sparse.look_cons, h]
  | cons c r ih =>
    simp only [Sparse.put]
    split
    · rw [Sparse.look_cons, if_neg h]
    · split
      · rename_i hc
        rw [Sparse.look_cons, if_neg h, Sparse.look_cons, if_neg (hc ▸ h)]
      · rw [Sparse.look_cons, Sparse.look_cons, ih]

theorem Sparse.look_put (m : List (Nat × α)) (a b : Nat) (v : α) :
    Sparse.look (Sparse.put m a v) b = if b = a then some v else Sparse.look m b := by
  split
  · subst b; simp
  · exact Sparse.look_put_ne m v ‹_›

theorem Sparse.look_drop (m : List (Nat × α)) (a b : Nat) :
    Sparse.look (Sparse.drop m a) b = if b = a then none else Sparse.look m b := by
  induction m with
  | nil => simp [Sparse.drop]
  | cons c r ih =>
    simp only [Sparse.drop, List.filter_cons, bne_iff_ne, ne_eq] at ih ⊢
    split
    · rw [Sparse.look_cons, Sparse.look_cons, ih]
      grind
    · rw [ih, Sparse.look_cons]
      grind

/-- An index that is listed is the only way to a value. -/
theorem Sparse.mem_of_look {m : List (Nat × α)} {a : Nat} {v : α} (h : Sparse.look m a = some v) :
    (a, v) ∈ m := by
  induction m with
  | nil => simp at h
  | cons c r ih =>
    rw [Sparse.look_cons] at h
    split at h
    · rename_i hc
      cases h
      simp [hc]
    · exact List.mem_cons_of_mem _ (ih h)

theorem Sparse.mem_put {m : List (Nat × α)} {a : Nat} {v : α} {c : Nat × α} (h : c ∈ Sparse.put m a v) :
    c = (a, v) ∨ c ∈ m := by
  induction m with
  | nil => simpa [Sparse.put] using h
  | cons d r ih =>
    simp only [Sparse.put] at h
    split at h
    · simpa using h
    · split at h
      · rcases List.mem_cons.1 h with h | h
        · exact .inl h
        · exact .inr (List.mem_cons_of_mem _ h)
      · rcases List.mem_cons.1 h with h | h
        · exact .inr (h ▸ List.mem_cons_self)
        · exact (ih h).imp_right (List.mem_cons_of_mem _)

theorem Sparse.mem_drop {m : List (Nat × α)} {a : Nat} {c : Nat × α} (h : c ∈ Sparse.drop m a) : c ∈ m :=
  List.mem_of_mem_filter h

theorem Sparse.rising_put {m : List (Nat × α)} (a : Nat) (v : α) (h : Sparse.Rising m) :
    Sparse.Rising (Sparse.put m a v) := by
  induction m with
  | nil => simp [Sparse.put, Sparse.Rising]
  | cons c r ih =>
    have hr := List.pairwise_cons.1 h
    simp only [Sparse.put]
    split
    · rename_i hac
      refine List.pairwise_cons.2 ⟨fun d hd => ?_, h⟩
      rcases List.mem_cons.1 hd with hd | hd
      · exact hd ▸ hac
      · exact Nat.lt_trans hac (hr.1 d hd)
    · split
      · rename_i hac
        exact List.pairwise_cons.2 ⟨fun d hd => hac ▸ hr.1 d hd, hr.2⟩
      · refine List.pairwise_cons.2 ⟨fun d hd => ?_, ih hr.2⟩
        rcases Sparse.mem_put hd with hd | hd
        · subst hd; simp only; omega
        · exact hr.1 d hd

theorem Sparse.rising_drop {m : List (Nat × α)} (a : Nat) (h : Sparse.Rising m) :
    Sparse.Rising (Sparse.drop m a) :=
  List.Pairwise.sublist List.filter_sublist h

/-! ## The byte memory -/

@[simp] theorem Memory.read_nil (a : Nat) : Memory.read [] a = 0 := rfl

@[simp] theorem Memory.read_write_same (m : Memory) (a : Nat) (v : Byte) :
    Memory.read (Memory.write m a v) a = v := by
  unfold Memory.read Memory.write
  split
  · rename_i h; simp [Sparse.look_drop, h]
  · simp

theorem Memory.read_write_ne (m : Memory) {a b : Nat} (v : Byte) (h : b ≠ a) :
    Memory.read (Memory.write m a v) b = Memory.read m b := by
  unfold Memory.read Memory.write
  split
  · simp [Sparse.look_drop, h]
  · rw [Sparse.look_put_ne m v h]

/-- One byte written: that byte reads as written, every other as before. -/
theorem Memory.read_write (m : Memory) (a b : Nat) (v : Byte) :
    Memory.read (Memory.write m a v) b = if b = a then v else Memory.read m b := by
  split
  · subst b; simp
  · exact Memory.read_write_ne m v ‹_›

theorem Memory.mem_write {m : Memory} {a : Nat} {v : Byte} {c : Host.Cell} (h : c ∈ Memory.write m a v) :
    c = (a, v) ∨ c ∈ m := by
  unfold Memory.write at h
  split at h
  · exact .inr (Sparse.mem_drop h)
  · exact Sparse.mem_put h

theorem Memory.wf_nil : Memory.wf [] := by simp [Memory.wf]

/-- A write keeps the canonical form. -/
theorem Memory.wf_write {m : Memory} (a : Nat) (v : Byte) (h : Memory.wf m) : Memory.wf (Memory.write m a v) := by
  unfold Memory.write
  split
  · exact ⟨Sparse.rising_drop a h.1, fun c hc => h.2 c (Sparse.mem_drop hc)⟩
  · rename_i hv
    refine ⟨Sparse.rising_put a v h.1, fun c hc => ?_⟩
    rcases Sparse.mem_put hc with hc | hc
    · subst hc; exact hv
    · exact h.2 c hc

theorem Memory.wf_writeBytes {m : Memory} (a : Nat) (vs : List Byte) (h : Memory.wf m) :
    Memory.wf (Memory.writeBytes m a vs) := by
  induction vs generalizing m a with
  | nil => exact h
  | cons v vs ih => exact ih (a + 1) (Memory.wf_write a v h)

theorem Memory.wf_clear {m : Memory} (a k : Nat) (h : Memory.wf m) : Memory.wf (Memory.clear m a k) :=
  ⟨List.Pairwise.sublist List.filter_sublist h.1, fun c hc => h.2 c (List.mem_of_mem_filter hc)⟩

theorem Memory.wf_foldl (cs : List Host.Cell) {m : Memory} (h : Memory.wf m) :
    Memory.wf (cs.foldl (fun m c => Memory.write m c.1 c.2) m) := by
  induction cs generalizing m with
  | nil => exact h
  | cons c cs ih => exact ih (Memory.wf_write c.1 c.2 h)

/-- Any cells make a memory in canonical form. -/
theorem Memory.wf_ofCells (cs : List Host.Cell) : Memory.wf (Memory.ofCells cs) :=
  Memory.wf_foldl cs Memory.wf_nil

theorem Memory.mem_foldl (cs : List Host.Cell) {m : Memory} {c : Host.Cell}
    (h : c ∈ cs.foldl (fun m c => Memory.write m c.1 c.2) m) : c ∈ cs ∨ c ∈ m := by
  induction cs generalizing m with
  | nil => exact .inr h
  | cons d cs ih =>
    rcases ih h with h | h
    · exact .inl (List.mem_cons_of_mem _ h)
    · rcases Memory.mem_write h with h | h
      · exact .inl (by simp [h])
      · exact .inr h

/-- The cells a memory was made from are the only ones it lists. -/
theorem Memory.mem_ofCells {cs : List Host.Cell} {c : Host.Cell} (h : c ∈ Memory.ofCells cs) : c ∈ cs := by
  rcases Memory.mem_foldl cs h with h | h
  · exact h
  · simp at h

/-! ## Slices -/

@[simp] theorem Memory.slice_length (m : Memory) (a k : Nat) : (Memory.slice m a k).length = k := by
  induction k generalizing a with
  | zero => rfl
  | succ k ih => simp [Memory.slice, ih]

@[simp] theorem Memory.slice_zero (m : Memory) (a : Nat) : Memory.slice m a 0 = [] := rfl

theorem Memory.slice_add (m : Memory) (a j k : Nat) :
    Memory.slice m a (j + k) = Memory.slice m a j ++ Memory.slice m (a + j) k := by
  induction j generalizing a with
  | zero => simp
  | succ j ih =>
    rw [show j + 1 + k = j + k + 1 by omega]
    simp only [Memory.slice, ih (a + 1), List.cons_append]
    rw [show a + 1 + j = a + (j + 1) by omega]

theorem Memory.slice_succ_last (m : Memory) (a k : Nat) :
    Memory.slice m a (k + 1) = Memory.slice m a k ++ [Memory.read m (a + k)] := by
  rw [Memory.slice_add]; rfl

theorem Memory.slice_getElem? (m : Memory) (a k i : Nat) (h : i < k) :
    (Memory.slice m a k)[i]? = some (Memory.read m (a + i)) := by
  induction k generalizing a i with
  | zero => omega
  | succ k ih =>
    cases i with
    | zero => rfl
    | succ i =>
      simp only [Memory.slice, List.getElem?_cons_succ, ih (a + 1) i (by omega)]
      rw [show a + 1 + i = a + (i + 1) by omega]

/-- Two slices are equal exactly when their bytes are. -/
theorem Memory.slice_congr {m n : Memory} {a b k : Nat}
    (h : ∀ i, i < k → Memory.read m (a + i) = Memory.read n (b + i)) : Memory.slice m a k = Memory.slice n b k := by
  induction k generalizing a b with
  | zero => rfl
  | succ k ih =>
    have h0 := h 0 (by omega)
    have ht := ih (a := a + 1) (b := b + 1) fun i hi => by
      have := h (i + 1) (by omega)
      rwa [show a + (i + 1) = a + 1 + i by omega, show b + (i + 1) = b + 1 + i by omega] at this
    simp only [Nat.add_zero] at h0
    simp only [Memory.slice, h0, ht]

/-! ## Bytes written in a row -/

/-- Consecutive bytes written read back as a slice, every other index as before. -/
theorem Memory.read_writeBytes (m : Memory) (a b : Nat) (vs : List Byte) :
    Memory.read (Memory.writeBytes m a vs) b =
      if a ≤ b ∧ b < a + vs.length then vs.getD (b - a) 0 else Memory.read m b := by
  induction vs generalizing m a with
  | nil => simp [Memory.writeBytes]
  | cons v vs ih =>
    rw [Memory.writeBytes, ih, Memory.read_write]
    by_cases h1 : b = a
    · subst h1; simp
    · by_cases h2 : a + 1 ≤ b ∧ b < a + 1 + vs.length
      · rw [if_pos h2, if_pos (by simp; omega), show b - a = b - (a + 1) + 1 by omega]
        simp
      · rw [if_neg h2, if_neg h1, if_neg (by simp; omega)]

theorem Memory.slice_writeBytes (m : Memory) (a : Nat) (vs : List Byte) :
    Memory.slice (Memory.writeBytes m a vs) a vs.length = vs := by
  apply List.ext_getElem?
  intro i
  by_cases h : i < vs.length
  · rw [Memory.slice_getElem? _ _ _ _ h, Memory.read_writeBytes, if_pos (by omega), Nat.add_sub_cancel_left,
      List.getD_eq_getElem?_getD, List.getElem?_eq_getElem h, Option.getD_some]
  · rw [List.getElem?_eq_none (by simp; omega), List.getElem?_eq_none (by omega)]

theorem Memory.mem_writeBytes {vs : List Byte} {m : Memory} {a : Nat} {c : Host.Cell}
    (h : c ∈ Memory.writeBytes m a vs) : (a ≤ c.1 ∧ c.1 < a + vs.length) ∨ c ∈ m := by
  induction vs generalizing m a with
  | nil => exact .inr h
  | cons v vs ih =>
    rcases ih h with h | h
    · exact .inl (by simp; omega)
    · rcases Memory.mem_write h with h | h
      · exact .inl (by subst h; simp)
      · exact .inr h

/-! ## Appending -/

/-- Appending bytes writes them at `dlen` in order, moves `dlen` by their number, and changes nothing else
(00 R10, 42 R150). -/
theorem appendAll_eq (vs : List Byte) (s : State) :
    appendAll vs s = { s with dst := Memory.writeBytes s.dst s.dlen vs, dlen := s.dlen + vs.length } := by
  induction vs generalizing s with
  | nil => rfl
  | cons v vs ih =>
    rw [appendAll, ih]
    simp only [append, Memory.writeBytes, List.length_cons]
    rw [show s.dlen + 1 + vs.length = s.dlen + (vs.length + 1) by omega]

/-- Appending in two parts is appending the whole. -/
theorem appendAll_append (us vs : List Byte) (s : State) :
    appendAll (us ++ vs) s = appendAll vs (appendAll us s) := by
  induction us generalizing s with
  | nil => rfl
  | cons u us ih => exact ih (append u s)

/-- In a canonical memory a listed byte is exactly one that does not read as unlisted. -/
theorem Memory.look_of_wf {m : Memory} (h : Memory.wf m) (a : Nat) (v : Byte) :
    Sparse.look m a = some v ↔ v ≠ Config.unlistedByte ∧ Memory.read m a = v := by
  constructor
  · intro hl
    exact ⟨h.2 _ (Sparse.mem_of_look hl), by simp [Memory.read, hl]⟩
  · rintro ⟨hv, hr⟩
    unfold Memory.read at hr
    cases hl : Sparse.look m a with
    | none => simp [hl] at hr; exact absurd hr.symm hv
    | some w => simpa [hl] using hr

end Sys2Proof.Machine
end

