-- ==== Sys2Proof/Laws/Copy.lean ====
section
/-! SUPPORT. What the two copies of the decoder do: the exact result when every check passes, and Corrupt when one does
not (43 R161, R173 to R176). -/

namespace Sys2Proof.Machine

/-- FETCH inside the stream: the byte at `ip`, and `ip` one on (43 R161). -/
theorem fetch_ok {s : State} (h : s.ip < s.srcLen) :
    fetch s = .ok (Memory.read s.src s.ip, { s with ip := s.ip + 1 }) := by
  simp [fetch, peek, Nat.not_le.2 h]

/-- FETCH at the end of the stream (43 R161). -/
theorem fetch_error {s : State} (h : s.srcLen ≤ s.ip) : fetch s = .error .corrupt := by
  simp [fetch, peek, h]

/-- One output byte inside the declared size (43 R176). -/
theorem putByte_ok {s : State} (v : Byte) (h : s.wp < s.size) :
    putByte v s = .ok { s with dst := Memory.write s.dst s.wp v, wp := s.wp + 1 } := by
  simp [putByte, Nat.not_le.2 h]

/-- One output byte past the declared size (43 R176). -/
theorem putByte_error {s : State} (v : Byte) (h : s.size ≤ s.wp) : putByte v s = .error .corrupt := by
  simp [putByte, h]

/-- The state after `k` literal bytes have been copied. -/
def literalsCopied (k : Nat) (s : State) : State :=
  { s with
    ip := s.ip + k
    wp := s.wp + k
    dst := Memory.writeBytes s.dst s.wp (Memory.slice s.src s.ip k) }

/-- The literal copy has its bytes in the stream and its room in the output; a copy of nothing needs neither
(43 R173). -/
def LiteralsFit (k : Nat) (s : State) : Prop := k = 0 ∨ (s.ip + k ≤ s.srcLen ∧ s.wp + k ≤ s.size)

/-- LITCOPY completes exactly when the bytes are there and fit, and does one thing (43 R173). -/
theorem litCopy_ok {k : Nat} {s : State} (h : LiteralsFit k s) : litCopy k s = .ok (literalsCopied k s) := by
  induction k generalizing s with
  | zero => rfl
  | succ k ih =>
    have h := h.resolve_left (by omega)
    rw [litCopy, fetch_ok (by omega)]
    simp only
    rw [putByte_ok _ (by simp; omega)]
    simp only
    rw [ih (.inr (by simp; omega))]
    simp only [literalsCopied, Memory.slice, Memory.writeBytes, Except.ok.injEq]
    rw [show s.ip + 1 + k = s.ip + (k + 1) by omega, show s.wp + 1 + k = s.wp + (k + 1) by omega]

/-- LITCOPY fails with Corrupt in every other case (43 R173, R176). -/
theorem litCopy_error {k : Nat} {s : State} (h : ¬LiteralsFit k s) : litCopy k s = .error .corrupt := by
  induction k generalizing s with
  | zero => exact absurd (.inl rfl) h
  | succ k ih =>
    simp only [LiteralsFit, Nat.add_one_ne_zero, false_or] at h
    rw [litCopy]
    by_cases hf : s.ip < s.srcLen
    · rw [fetch_ok hf]
      simp only
      by_cases hw : s.wp < s.size
      · rw [putByte_ok _ (by simpa using hw)]
        simp only
        refine ih ?_
        simp only [LiteralsFit]
        omega
      · rw [putByte_error _ (by simp; omega)]
    · rw [fetch_error (by omega)]

/-- The output after a back-copy of `k` bytes, written one at a time (43 R174, 20 R60). -/
def backFill (off : Nat) : Nat → Nat → Memory → Memory
  | 0, _, m => m
  | k + 1, wp, m => backFill off k (wp + 1) (Memory.write m wp (Memory.read m (wp - off)))

/-- The state after a back-copy. -/
def backCopied (k off : Nat) (s : State) : State :=
  { s with wp := s.wp + k, dst := backFill off k s.wp s.dst }

/-- The loop of BACKCOPY completes exactly when its bytes fit (43 R174, R176). -/
theorem backLoop_ok {off k : Nat} {s : State} (h : k = 0 ∨ s.wp + k ≤ s.size) :
    backLoop off k s = .ok (backCopied k off s) := by
  induction k generalizing s with
  | zero => rfl
  | succ k ih =>
    have h := h.resolve_left (by omega)
    rw [backLoop, putByte_ok _ (by omega)]
    simp only
    rw [ih (.inr (by simp; omega))]
    simp only [backCopied, backFill, Except.ok.injEq]
    rw [show s.wp + 1 + k = s.wp + (k + 1) by omega]

theorem backLoop_error {off k : Nat} {s : State} (hk : k ≠ 0) (h : s.size < s.wp + k) :
    backLoop off k s = .error .corrupt := by
  induction k generalizing s with
  | zero => exact absurd rfl hk
  | succ k ih =>
    rw [backLoop]
    by_cases hw : s.wp < s.size
    · rw [putByte_ok _ hw]
      simp only
      exact ih (by omega) (by simp; omega)
    · rw [putByte_error _ (by omega)]

/-- The back-copy reaches no byte before the start of the output, and its bytes fit (43 R174, R175). -/
def BackFits (len off : Nat) (s : State) : Prop := off ≤ s.wp ∧ (len = 0 ∨ s.wp + len ≤ s.size)

/-- BACKCOPY completes exactly when it is in bounds, and does one thing (43 R174). -/
theorem backCopy_ok {len off : Nat} {s : State} (h : BackFits len off s) :
    backCopy len off s = .ok (backCopied len off s) := by
  rw [backCopy, if_neg (by have := h.1; omega), backLoop_ok h.2]

/-- BACKCOPY fails with Corrupt in every other case (43 R175, R176). -/
theorem backCopy_error {len off : Nat} {s : State} (h : ¬BackFits len off s) :
    backCopy len off s = .error .corrupt := by
  rw [backCopy]
  split
  · rfl
  · simp only [BackFits] at h
    exact backLoop_error (by omega) (by omega)

/-- Every byte of a back-copy repeats the byte `off` before it; every other byte is as before (20 R60). -/
theorem read_backFill {off k wp : Nat} {m : Memory} (h0 : 0 < off) (h1 : off ≤ wp) (a : Nat) :
    Memory.read (backFill off k wp m) a =
      if wp ≤ a ∧ a < wp + k then Memory.read (backFill off k wp m) (a - off) else Memory.read m a := by
  have outside : ∀ (k wp : Nat) (m : Memory) (a : Nat), ¬(wp ≤ a ∧ a < wp + k) →
      Memory.read (backFill off k wp m) a = Memory.read m a := by
    intro k
    induction k with
    | zero => intros; rfl
    | succ k ih =>
      intro wp m a h
      rw [backFill, ih _ _ _ (by omega), Memory.read_write_ne _ _ (by omega)]
  split
  · rename_i h
    induction k generalizing wp m with
    | zero => omega
    | succ k ih =>
      simp only [backFill]
      by_cases ha : a = wp
      · subst ha
        rw [outside _ _ _ _ (by omega), outside _ _ _ _ (by omega), Memory.read_write_same,
          Memory.read_write_ne _ _ (by omega)]
      · exact ih (by omega) (by omega)
  · exact outside _ _ _ _ ‹_›

theorem backFill_wf {off k wp : Nat} {m : Memory} (h : Memory.wf m) : Memory.wf (backFill off k wp m) := by
  induction k generalizing wp m with
  | zero => exact h
  | succ k ih => exact ih (Memory.wf_write _ _ h)

theorem mem_backFill {off k wp : Nat} {m : Memory} {c : Host.Cell} (h : c ∈ backFill off k wp m) :
    (wp ≤ c.1 ∧ c.1 < wp + k) ∨ c ∈ m := by
  induction k generalizing wp m with
  | zero => exact .inr h
  | succ k ih =>
    rcases ih h with h | h
    · exact .inl (by omega)
    · rcases Memory.mem_write h with h | h
      · exact .inl (by subst h; simp)
      · exact .inr h

/-- A match token's copies complete (43 R177). -/
def MatchFits (lit mlen off : Nat) (s : State) : Prop :=
  LiteralsFit lit s ∧ BackFits mlen off (literalsCopied lit s)

/-- The state after a match token: fields, literal copy, back-copy (43 R177). -/
def matchCopied (lit mlen off : Nat) (s : State) : State :=
  backCopied mlen off (literalsCopied lit { s with lit := lit, mlen := mlen, off := off })

/-- A match token completes exactly when both copies do (43 R166 to R168). -/
theorem copyMatch_ok {lit mlen off : Nat} {s : State} (h : MatchFits lit mlen off s) :
    copyMatch lit mlen off s = .ok (matchCopied lit mlen off s) := by
  rw [copyMatch, litCopy_ok (k := lit) (s := { s with lit := lit, mlen := mlen, off := off }) h.1]
  exact backCopy_ok h.2

theorem copyMatch_error {lit mlen off : Nat} {s : State} (h : ¬MatchFits lit mlen off s) :
    copyMatch lit mlen off s = .error .corrupt := by
  rw [copyMatch]
  by_cases hl : LiteralsFit lit s
  · rw [litCopy_ok (k := lit) (s := { s with lit := lit, mlen := mlen, off := off }) hl]
    exact backCopy_error fun hb => h ⟨hl, hb⟩
  · rw [litCopy_error (k := lit) (s := { s with lit := lit, mlen := mlen, off := off }) hl]

/-- `settle` of a run that ended well, and of one that failed. -/
@[simp] theorem settle_ok (s t : State) : settle s (.ok t) = .next t := rfl
@[simp] theorem settle_error (s : State) (e : Failure) : settle s (.error e) = .next (raise e s) := rfl

/-- The Terminal step completes with its literals copied, or unread when the output is full (43 R170, R180). -/
theorem readTerminal_unread {lit : Nat} {s : State} (h : s.size ≤ s.wp) : readTerminal lit s = .ok s := by
  simp [readTerminal, Nat.not_lt.2 h]

theorem readTerminal_ok {lit : Nat} {s : State} (h : s.wp < s.size)
    (hf : LiteralsFit lit { s with ip := s.ip + 1 }) :
    readTerminal lit s = .ok (literalsCopied lit { s with ip := s.ip + 1, lit := lit }) := by
  rw [readTerminal, if_pos h]
  exact litCopy_ok (k := lit) (s := { s with ip := s.ip + 1, lit := lit }) hf

theorem readTerminal_error {lit : Nat} {s : State} (h : s.wp < s.size)
    (hf : ¬LiteralsFit lit { s with ip := s.ip + 1 }) : readTerminal lit s = .error .corrupt := by
  rw [readTerminal, if_pos h]
  exact litCopy_error (k := lit) (s := { s with ip := s.ip + 1, lit := lit }) hf

end Sys2Proof.Machine
end

