-- ==== Sys2Proof/Laws/Emit.lean ====
section
/-! SUPPORT. What the encoder's emissions do: a token appended, a flush as a whole (42 R137, R138, R144). -/

namespace Sys2Proof.Machine

/-- The length of a RawRun of a flush: between 4 and 112, a multiple of 4, and not above the gap (42 R138). -/
theorem rawRunLength_range {gap : Nat} (h : 4 ≤ gap) :
    4 ≤ rawRunLength gap ∧ rawRunLength gap ≤ 112 ∧ rawRunLength gap ≤ gap ∧ rawRunLength gap % 4 = 0 := by
  simp only [rawRunLength, Config.rawMax]
  omega

/-- A RawRun leaves the gap's remainder by 4 as it is. -/
theorem rawRunLength_mod {gap : Nat} (h : 4 ≤ gap) : (gap - rawRunLength gap) % 4 = gap % 4 := by
  have := rawRunLength_range h
  omega

/-- A token emitted: its control bytes and its literal bytes appended, nothing else changed. -/
theorem emit_eq (i : Instr) (s : State) :
    emit i s = appendAll (encode i ++ Memory.slice s.src s.flushed i.literals) s := rfl

/-- One RawRun of a flush as one update. -/
theorem flushRun_eq (len : Nat) (s : State) :
    flushRun len s =
      { appendAll (encode (.rawRun len) ++ Memory.slice s.src s.flushed len) s with flushed := s.flushed + len } := by
  simp [flushRun, emit, Instr.literals, appendAll_eq]

/-- Enough fuel is enough: more changes nothing. -/
theorem Ref.flushLengths_fuel {fuel gap : Nat} (h : gap ≤ fuel) :
    Ref.flushLengths fuel gap = Ref.flushLengths gap gap := by
  induction fuel using Nat.strongRecOn generalizing gap with
  | ind fuel ih =>
    cases fuel with
    | zero => simp [Nat.le_zero.1 h]
    | succ fuel =>
      by_cases hg : 4 ≤ gap
      · have hr := rawRunLength_range hg
        obtain ⟨g, rfl⟩ : ∃ g, gap = g + 1 := ⟨gap - 1, by omega⟩
        simp only [Ref.flushLengths, if_pos hg]
        rw [ih fuel (by omega) (gap := g + 1 - rawRunLength (g + 1)) (by omega)]
        rw [ih g (by omega) (gap := g + 1 - rawRunLength (g + 1)) (by omega)]
      · cases gap <;> simp [Ref.flushLengths, hg]

/-- A gap below 4 needs no RawRun (42 R138). -/
theorem Ref.flushBytes_small {src : Memory} {a b : Nat} (h : b - a < 4) : Ref.flushBytes src a b = [] := by
  rw [Ref.flushBytes]
  cases hk : b - a with
  | zero => rfl
  | succ k => simp [Ref.flushLengths, Ref.runBytes, show ¬4 ≤ k + 1 by omega]

/-- A larger gap starts with the longest RawRun that fits (42 R138). -/
theorem Ref.flushBytes_step {src : Memory} {a b : Nat} (h : 4 ≤ b - a) :
    Ref.flushBytes src a b =
      encode (.rawRun (rawRunLength (b - a))) ++ Memory.slice src a (rawRunLength (b - a)) ++
        Ref.flushBytes src (a + rawRunLength (b - a)) b := by
  have hr := rawRunLength_range h
  rw [Ref.flushBytes, Ref.flushBytes]
  obtain ⟨k, hk⟩ : ∃ k, b - a = k + 1 := ⟨b - a - 1, by omega⟩
  rw [hk] at hr h ⊢
  rw [Ref.flushLengths, if_pos h, Ref.runBytes,
    show b - (a + rawRunLength (k + 1)) = k + 1 - rawRunLength (k + 1) by omega,
    Ref.flushLengths_fuel (fuel := k) (by omega)]

/-- The loop of FLUSH appends the RawRuns of the whole gap and leaves a gap of 0 to 3 bytes (42 R138). -/
theorem flushLoop_eq {fuel upto : Nat} {s : State} (hf : upto - s.flushed ≤ fuel) (hu : s.flushed ≤ upto) :
    flushLoop fuel upto s =
      { appendAll (Ref.flushBytes s.src s.flushed upto) s with flushed := upto - (upto - s.flushed) % 4 } := by
  induction fuel generalizing s with
  | zero =>
    have h : upto = s.flushed := by omega
    subst h
    simp [flushLoop, Ref.flushBytes, Ref.flushLengths, Ref.runBytes, appendAll]
  | succ fuel ih =>
    rw [flushLoop]
    split
    · rename_i hg
      have hr := rawRunLength_range hg
      have hm := rawRunLength_mod hg
      rw [Ref.flushBytes_step hg, appendAll_append, flushRun_eq,
        ih (by simp only []; omega) (by simp only []; omega)]
      simp only [appendAll_eq]
      congr 1
      omega
    · rename_i hg
      rw [Ref.flushBytes_small (by omega), appendAll, show upto - (upto - s.flushed) % 4 = s.flushed by omega]

/-- FLUSH as a whole (42 R138): the RawRuns of the gap appended, `flushed` moved over them, the remainder in `lit`. -/
theorem flush_eq {upto : Nat} {s : State} (hu : s.flushed ≤ upto) :
    flush upto s =
      { appendAll (Ref.flushBytes s.src s.flushed upto) s with
        flushed := upto - (upto - s.flushed) % 4
        lit := (upto - s.flushed) % 4 } := by
  rw [flush, flushLoop_eq (Nat.le_refl _) hu]
  simp only [appendAll_eq]
  congr 1
  omega

end Sys2Proof.Machine
end

