-- ==== Sys2Proof/Laws/Finder.lean ====
section
/-! SUPPORT. What the finder's search can do: which registers the walk writes, and the bounds of its result
(41 R113 to R118). -/

namespace Sys2Proof.Machine

theorem prefixLen_le (src : Memory) (p c cap : Nat) : prefixLen src p c cap ≤ cap := by
  induction cap generalizing p c with
  | zero => rfl
  | succ cap ih =>
    simp only [prefixLen]
    split
    · exact Nat.succ_le_succ (ih _ _)
    · omega

/-- The state of a search but for the registers the walk writes. -/
def walkFrame (s t : State) : Prop :=
  ∃ cand hops curLen bestLen bestOff,
    t = { s with cand := cand, hops := hops, curLen := curLen, bestLen := bestLen, bestOff := bestOff }

theorem walkFrame_refl (s : State) : walkFrame s s := ⟨_, _, _, _, _, rfl⟩

theorem walkFrame_trans {s t u : State} (h : walkFrame s t) (k : walkFrame t u) : walkFrame s u := by
  obtain ⟨_, _, _, _, _, rfl⟩ := h
  obtain ⟨_, _, _, _, _, rfl⟩ := k
  exact ⟨_, _, _, _, _, rfl⟩

theorem examine_frame (c : Nat) (s : State) : walkFrame s (examine c s) := by
  rw [examine, updateBest]
  split <;> exact ⟨_, _, _, _, _, rfl⟩

/-- The walk writes only the finder's five search registers (41 R113). -/
theorem walk_frame (fuel : Nat) (s : State) : walkFrame s (walk fuel s) := by
  induction fuel generalizing s with
  | zero => exact walkFrame_refl s
  | succ fuel ih =>
    rw [walk]
    split
    · exact walkFrame_refl s
    · split
      · exact walkFrame_trans (examine_frame _ s) (ih _)
      · exact walkFrame_refl s

theorem search_frame (s : State) : walkFrame s (search s) :=
  walkFrame_trans ⟨s.cand, 0, s.curLen, 0, s.bestOff, rfl⟩ (walk_frame _ _)

/-- A best match, if there is one, is at most the cap long, comes from an earlier position inside the window
(41 R114, R116). -/
def BestInBounds (s : State) : Prop :=
  s.bestLen ≤ matchCap s ∧ (0 < s.bestLen → 1 ≤ s.bestOff ∧ s.bestOff ≤ s.scan ∧ s.bestOff < window s)

theorem examine_best {c : Nat} {s : State} (hw : inWindow s c = true) (h : BestInBounds s) :
    BestInBounds (examine c s) := by
  simp only [inWindow, Bool.and_eq_true, decide_eq_true_eq] at hw
  have hp := prefixLen_le s.src s.scan c (matchCap s)
  rw [examine, updateBest]
  split
  · refine ⟨hp, fun _ => ?_⟩
    simp only [window] at hw ⊢
    omega
  · exact h

theorem walk_best {fuel : Nat} {s : State} (h : BestInBounds s) : BestInBounds (walk fuel s) := by
  induction fuel generalizing s with
  | zero => exact h
  | succ fuel ih =>
    rw [walk]
    split
    · exact h
    · split
      · rename_i hc
        simp only [Bool.and_eq_true] at hc
        exact ih (examine_best hc.1 h)
      · exact h

/-- The result of every search is in bounds, whatever the tables hold (41 R114, R116). -/
theorem search_best (s : State) : BestInBounds (search s) :=
  walk_best ⟨Nat.zero_le _, fun h => absurd h (Nat.lt_irrefl 0)⟩

end Sys2Proof.Machine
end

