-- ==== Sys2Proof/Laws/PerInstr.lean ====
section
/-! SUPPORT. The lemma families over all tokens. `ControlBytes`: the encoding of a token has as many bytes as its kind
has control bytes (30 R79). -/

namespace Sys2Proof.Laws.ControlBytes

/-- The encoding of `i` is `C` bytes long (30 R79). -/
def Statement (i : Instr) : Prop := (encode i).length = i.kind.controlBytes

theorem shortMatch (lit len off : Nat) : Statement (.shortMatch lit len off) := rfl
theorem mediumMatch (lit len off : Nat) : Statement (.mediumMatch lit len off) := rfl
theorem longMatch (lit len off : Nat) : Statement (.longMatch lit len off) := rfl
theorem rawRun (len : Nat) : Statement (.rawRun len) := rfl
theorem terminal (lit : Nat) : Statement (.terminal lit) := rfl

end Sys2Proof.Laws.ControlBytes
end

