-- ==== Sys2Proof/Laws/Step.lean ====
section
/-! SUPPORT. What each kind of step can do, said once (70 R240): the start steps, a token, a position, the ends of the
two operations, and the host's acts. -/

namespace Sys2Proof.Machine

/-! ## DECOMPRESS -/

/-- A failure discards what the fetch did. -/
theorem raise_fetched (e : Failure) (k : Kind) (s : State) : raise e (fetched k s) = raise e s := by
  cases k <;> rfl

/-- Fetching control bytes writes `b0` to `b3`, `ip` and `dstate` only. -/
theorem fetched_frame (k : Kind) (s : State) : TokenFrame s (fetched k s) := by
  cases k <;> rfl

theorem TokenFrame.trans {s t u : State} (h : TokenFrame s t) (k : TokenFrame t u) : TokenFrame s u := by
  rw [TokenFrame] at *
  rw [k, h]

theorem dropTokenTemps_frame (s : State) : TokenFrame s (dropTokenTemps s) := rfl

@[simp] theorem endToken_running {t : State} (h : t.op = .decompress) :
    endToken (.next t) = .next (dropTokenTemps t) := by simp [endToken, h]

@[simp] theorem endToken_raise (e : Failure) (s : State) : endToken (.next (raise e s)) = .next (raise e s) := rfl

/-- `k` literal bytes copied change nothing but `ip`, `wp` and DST. -/
theorem literalsCopied_frame (k : Nat) (s : State) : TokenFrame s (literalsCopied k s) := rfl

/-- A match token executed changes nothing outside the token's registers and DST. -/
theorem matchCopied_frame (lit mlen off : Nat) (s : State) : TokenFrame s (matchCopied lit mlen off s) := rfl

theorem settle_copyMatch (lit mlen off : Nat) (s : State) :
    settle s (copyMatch lit mlen off s) = .next (matchCopied lit mlen off s) ∨
      settle s (copyMatch lit mlen off s) = .next (raise .corrupt s) := by
  by_cases h : MatchFits lit mlen off s
  · exact .inl (by rw [copyMatch_ok h, settle_ok])
  · exact .inr (by rw [copyMatch_error h, settle_error])

/-- Every token completes within its frame or raises Corrupt (43 R166 to R170). -/
theorem exec_cases (i : Instr) (s : State) :
    (∃ t, exec i s = .next t ∧ TokenFrame s t) ∨ exec i s = .next (raise .corrupt s) := by
  have h3 : ∀ lit mlen off, (∃ t, settle s (copyMatch lit mlen off s) = .next t ∧ TokenFrame s t) ∨
      settle s (copyMatch lit mlen off s) = .next (raise .corrupt s) := fun lit mlen off =>
    (settle_copyMatch lit mlen off s).imp (fun h => ⟨_, h, matchCopied_frame lit mlen off s⟩) id
  cases i with
  | shortMatch => exact h3 ..
  | mediumMatch => exact h3 ..
  | longMatch => exact h3 ..
  | rawRun len =>
    rw [exec, execRawRun]
    by_cases h : LiteralsFit len { s with lit := len }
    · exact .inl ⟨literalsCopied len { s with lit := len }, by rw [litCopy_ok h, settle_ok], rfl⟩
    · exact .inr (by rw [litCopy_error h, settle_error])
  | terminal lit =>
    rw [exec, execTerminal]
    by_cases hw : s.wp < s.size
    · by_cases h : LiteralsFit lit { exitLoop s with ip := s.ip + 1 }
      · refine .inl ⟨markDone (literalsCopied lit { exitLoop s with ip := s.ip + 1, lit := lit }), ?_, rfl⟩
        rw [readTerminal_ok (s := exitLoop s) hw h]
        rfl
      · exact .inr (by rw [readTerminal_error (s := exitLoop s) hw h]; rfl)
    · refine .inl ⟨markDone (exitLoop s), ?_, rfl⟩
      rw [readTerminal_unread (s := exitLoop s) (Nat.le_of_not_lt hw)]
      rfl

/-- A token stepped from `u`, which is `s` but for the token's registers. -/
theorem endToken_exec_cases {s u : State} (i : Instr) (hu : TokenFrame s u) (ho : s.op = .decompress)
    (hr : raise .corrupt u = raise .corrupt s) :
    (∃ t, endToken (exec i u) = .next t ∧ TokenFrame s t) ∨
      endToken (exec i u) = .next (raise .corrupt s) := by
  obtain ⟨t, h, ht⟩ | h := exec_cases i u
  · have hs : TokenFrame s t := hu.trans ht
    have hop : t.op = .decompress := by rw [show t.op = s.op by rw [hs], ho]
    exact .inl ⟨_, by rw [h, endToken_running hop], hs.trans (dropTokenTemps_frame t)⟩
  · exact .inr (by rw [h, endToken_raise, hr])

/-- One step of DECOMPRESS after its header: a token within its frame, Corrupt, or the passed final check. -/
theorem decompressStep_cases {s : State} (ho : s.op = .decompress) :
    (∃ t, decompressStep s = .next t ∧ TokenFrame s t ∧ s.dstate ≠ .done) ∨
    decompressStep s = .next (raise .corrupt s) ∨
    (decompressStep s = .next (complete s) ∧ s.dstate = .done ∧ s.wp = s.size) := by
  unfold decompressStep
  split
  · rename_i hd
    unfold tokenStep
    split
    · exact .inr (.inl rfl)
    · rename_i i _ _
      obtain ⟨t, h, ht⟩ | h := endToken_exec_cases i (fetched_frame i.kind s) ho (raise_fetched _ _ _)
      · exact .inl ⟨t, h, ht, by simp [hd]⟩
      · exact .inr (.inl h)
  · rename_i hd
    obtain ⟨t, h, ht⟩ | h := endToken_exec_cases (s := s) (u := s) (unpackTerminal s.b0) rfl ho rfl
    · exact .inl ⟨t, h, ht, by simp [hd]⟩
    · exact .inr (.inl h)
  · rename_i hd
    unfold finalCheck
    split
    · exact .inr (.inr ⟨rfl, hd, by assumption⟩)
    · exact .inr (.inl rfl)

/-! ## The start steps -/

/-- The extended header is 9 bytes long, or 8 (00 R6, 92 D17). -/
theorem extLength_range (e : HdrExtLen) : 8 ≤ extLength e ∧ extLength e ≤ 9 := by
  cases e <;> decide

/-- A start command leaves the parameter `HDR_EXT_LEN` (log 12). -/
@[simp] theorem latch_hdrExtLen (c : StartCmd) (s : State) : (latch c s).hdrExtLen = s.hdrExtLen := by
  unfold latch
  split <;> rfl

/-- The start of DECOMPRESS fails, or writes the five registers of the header read (40 R102, R103). -/
theorem startDecompress_cases (s : State) :
    startDecompress s = .next (raise .invalidMagic s) ∨ startDecompress s = .next (raise .corrupt s) ∨
    (headerLength (extLength s.hdrExtLen) s ≤ s.srcLen ∧
      startDecompress s = .next { s with
        hlen := headerLength (extLength s.hdrExtLen) s, size := headerSize s, ip := headerLength (extLength s.hdrExtLen) s,
        wp := 0, dstate := .running }) := by
  unfold startDecompress readHeader
  split
  · exact .inl rfl
  · split
    · exact .inl rfl
    · split
      · exact .inr (.inl rfl)
      · exact .inr (.inr ⟨by omega, rfl⟩)

/-- The start of COMPRESS: nothing but the failure above `SIZE_MAX`, else the cleared table, the cursors and the
header (42 R130, 40 R100). -/
theorem startCompress_eq (s : State) :
    startCompress s =
      if s.srcLen > Config.sizeMax then .next (raise .inputTooLarge s)
      else .next { s with
        head := [], scan := 0, flushed := 0, dlen := 5, dst := Memory.writeBytes s.dst 0 (headerBytes s.srcLen) } := by
  unfold startCompress writeHeader
  split
  · rfl
  · rw [settle_ok, appendAll_eq]
    rfl

/-! ## COMPRESS -/

/-- `t` is `s` but for the output, `flushed`, the two tables and the position's temporaries. -/
def BodyFrame (s t : State) : Prop :=
  t = { s with
    flushed := t.flushed, dlen := t.dlen, dst := t.dst, head := t.head, prev := t.prev, lit := t.lit, key := t.key,
    cand := t.cand, hops := t.hops, curLen := t.curLen, bestLen := t.bestLen, bestOff := t.bestOff }

theorem BodyFrame.trans {s t u : State} (h : BodyFrame s t) (k : BodyFrame t u) : BodyFrame s u := by
  rw [BodyFrame] at *
  rw [k, h]

theorem BodyFrame.of_walkFrame {s t : State} (h : walkFrame s t) : BodyFrame s t := by
  obtain ⟨_, _, _, _, _, rfl⟩ := h
  rfl

/-- The finder's step writes the tables and its own temporaries (41 R124). -/
theorem finderStep_frame (b : Bool) (s : State) : BodyFrame s (finderStep b s) := by
  have hi : BodyFrame s (insertPosition (computeKey s)) := rfl
  cases b
  · exact hi.trans rfl
  · exact hi.trans (.of_walkFrame (search_frame _))

/-- With a search the finder's result is in bounds (41 R114, R116). -/
theorem finderStep_best (s : State) : BestInBounds (finderStep true s) := search_best _

/-- `t` is `s` but for the output, `flushed` and `lit`. -/
def EmitFrame (s t : State) : Prop :=
  t = { s with flushed := t.flushed, dlen := t.dlen, dst := t.dst, lit := t.lit }

theorem EmitFrame.trans {s t u : State} (h : EmitFrame s t) (k : EmitFrame t u) : EmitFrame s u := by
  rw [EmitFrame] at *
  rw [k, h]

theorem EmitFrame.body {s t : State} (h : EmitFrame s t) : BodyFrame s t := by
  rw [EmitFrame] at h
  rw [h]
  rfl

/-- An emission appends and writes nothing else (42 R137, R138). -/
theorem emit_frame (i : Instr) (s : State) : EmitFrame s (emit i s) := by
  rw [emit_eq, appendAll_eq]
  rfl

theorem flushLoop_frame (fuel upto : Nat) (s : State) : EmitFrame s (flushLoop fuel upto s) := by
  induction fuel generalizing s with
  | zero => rfl
  | succ fuel ih =>
    unfold flushLoop
    split
    · refine EmitFrame.trans ?_ (ih _)
      rw [flushRun_eq, appendAll_eq]
      rfl
    · rfl

theorem flush_frame (upto : Nat) (s : State) : EmitFrame s (flush upto s) :=
  (flushLoop_frame _ upto s).trans rfl

/-- An accepted match in the finder's bounds has a shape (42 R140, R151). -/
theorem select_of_best {W lit len off : Nat} (hl : len ≤ 1028) (ho : off < W) : select W lit len off ≠ none := by
  unfold select
  split
  · simp
  · split
    · simp
    · rw [if_pos ⟨hl, ho⟩]
      simp

theorem accept_pos {len off : Nat} (h : accept len off = true) : 0 < len := by
  unfold accept at h
  split at h
  · cases h
  · omega

/-- A match in the finder's bounds is emitted: the last branch of the shape selection is not reached (42 R137,
R151). -/
theorem emitMatch_next {s : State} (hl : s.bestLen ≤ 1028) (ho : s.bestOff < window s) :
    ∃ t, emitMatch s = .next t ∧ EmitFrame s t := by
  have hf := flush_frame s.scan s
  unfold emitMatch
  generalize flush s.scan s = u at *
  have hl' : u.bestLen ≤ 1028 := by rw [hf]; exact hl
  have ho' : u.bestOff < window u := by rw [hf]; exact ho
  cases hs : select (window u) u.lit u.bestLen u.bestOff with
  | none => exact absurd hs (select_of_best hl' ho')
  | some i =>
    let t := emit i u
    exact ⟨{ t with flushed := t.flushed + t.lit + t.bestLen }, by simp only [hs, t],
      hf.trans ((emit_frame i u).trans rfl)⟩

/-- Every position completes, within its frame (42 R131 to R137, R151). -/
theorem scanBody_next (s : State) : ∃ t, scanBody s = .next t ∧ BodyFrame s t := by
  unfold scanBody
  by_cases h1 : s.scan + 1 < s.srcLen
  · rw [if_pos h1]
    have hf := finderStep_frame (decide (s.scan ≥ s.flushed)) s
    by_cases hg : s.scan ≥ s.flushed
    · rw [decide_eq_true hg] at hf ⊢
      have hb := finderStep_best s
      generalize finderStep true s = u at *
      dsimp only
      have hc : EmitFrame u u := rfl
      have hu : BodyFrame s (clamp u) := hf.trans rfl
      have hl : (clamp u).bestLen ≤ 1028 :=
        Nat.le_trans (Nat.min_le_left _ _) (Nat.le_trans hb.1 (Nat.min_le_left _ _))
      split
      · split
        · rename_i ha
          have hp : 0 < u.bestLen := Nat.lt_of_lt_of_le (accept_pos ha) (Nat.min_le_left _ _)
          obtain ⟨t, ht, hr⟩ := emitMatch_next hl (show (clamp u).bestOff < window (clamp u) from (hb.2 hp).2.2)
          exact ⟨t, ht, hu.trans hr.body⟩
        · exact ⟨_, rfl, hu⟩
      · exact ⟨_, rfl, hf⟩
    · rw [decide_eq_false hg] at hf ⊢
      dsimp only
      split
      · rename_i hg'
        exact absurd (by simpa [finderStep, insertPosition, headWrite, prevWrite, computeKey] using hg') hg
      · exact ⟨_, rfl, hf⟩
  · rw [if_neg h1]
    exact ⟨s, rfl, rfl⟩

/-- One step of COMPRESS: a position within its frame, or the end of the stream (42 R131, R145 to R147). -/
theorem compressStep_cases (s : State) :
    (s.scan < s.srcLen ∧ ∃ t, compressStep s = .next t ∧ PositionFrame s t ∧ t.scan = s.scan + 1) ∨
    (s.srcLen ≤ s.scan ∧ ∃ t, EmitFrame s t ∧ compressStep s = .next (complete (dropFinderTemps t))) := by
  unfold compressStep
  split
  · rename_i h
    obtain ⟨t, ht, hf⟩ := scanBody_next s
    refine .inl ⟨h, endPosition t, by rw [ht], ?_, ?_⟩
    · rw [hf]
      rfl
    · rw [hf]
      rfl
  · rename_i h
    refine .inr ⟨Nat.le_of_not_lt h, finishStream s, ?_, rfl⟩
    exact (flush_frame _ _).trans ((emit_frame _ _).trans rfl)

/-! ## The host's acts -/

/-- Everything a pending act can lead to: a refusal, a start step on the fresh state, or an access to SRC or DST that
the machine does not follow (70 R225, R227, 60 R212). -/
theorem hostStep_cases (a : HostAct) (s : State) :
    (∃ r, hostStep a s = .refused r) ∨
    (s.busy = false ∧ ∃ c, a = .start c ∧ startRefusal c = none ∧
      ((∃ wb mh, c.job = .compress wb mh ∧ hostStep a s = startCompress (latch c s)) ∨
        (c.job = .decompress ∧ hostStep a s = startDecompress (latch c s)))) ∨
    (s.busy = false ∧ hostStep a s = .next { s with port := none }) := by
  cases a with
  | cancel => exact .inl ⟨_, rfl⟩
  | access sp =>
    cases hb : s.busy
    · cases sp
      · exact .inr (.inr ⟨rfl, by simp [hostStep, hb]⟩)
      · exact .inr (.inr ⟨rfl, by simp [hostStep, hb]⟩)
      · exact .inl ⟨.tablesHidden, by simp [hostStep, hb]⟩
      · exact .inl ⟨.tablesHidden, by simp [hostStep, hb]⟩
    · exact .inl ⟨.accessWhileBusy, by simp [hostStep, hb]⟩
  | start c =>
    cases hb : s.busy
    · cases hr : startRefusal c with
      | some r => exact .inl ⟨r, by simp [hostStep, hb, startOperation, hr]⟩
      | none =>
        refine .inr (.inl ⟨rfl, c, rfl, hr, ?_⟩)
        cases hj : c.job with
        | compress wb mh => exact .inl ⟨wb, mh, rfl, by simp [hostStep, hb, startOperation, hr, hj]⟩
        | decompress => exact .inr ⟨rfl, by simp [hostStep, hb, startOperation, hr, hj]⟩
    · exact .inl ⟨.startWhileBusy, by simp [hostStep, hb]⟩

/-! ## Canonical forms -/

theorem rising_headOfEntries (es : List (Nat × Nat)) : Sparse.Rising (headOfEntries es) := by
  have h : ∀ (l : List (Nat × Nat)) (m : HeadTable), Sparse.Rising m →
      Sparse.Rising (l.foldl (fun m e => Sparse.put m e.1 e.2) m) := by
    intro l
    induction l with
    | nil => exact fun _ h => h
    | cons e l ih => exact fun m h => ih _ (Sparse.rising_put _ _ h)
  exact h _ _ List.Pairwise.nil

/-- A HEAD of free entries lists keys only (10 R31). -/
theorem mem_headOfEntries {es : List (Nat × Nat)} {e : Nat × Nat} (h : e ∈ headOfEntries es) :
    e.1 < Config.keyCount := by
  have hl : ∀ (l : List (Nat × Nat)) (m : HeadTable), (∀ x ∈ l, x.1 < Config.keyCount) →
      (∀ x ∈ m, x.1 < Config.keyCount) →
      ∀ x ∈ l.foldl (fun m e => Sparse.put m e.1 e.2) m, x.1 < Config.keyCount := by
    intro l
    induction l with
    | nil => exact fun m _ h => h
    | cons y l ih =>
      intro m h1 h2
      refine ih _ (fun x hx => h1 x (List.mem_cons_of_mem _ hx)) fun x hx => ?_
      rcases Sparse.mem_put hx with h | h
      · rw [h]
        exact h1 y List.mem_cons_self
      · exact h2 x h
  refine hl _ _ (fun x hx => ?_) (fun x hx => by cases hx) e h
  simpa using (List.mem_filter.1 hx).2

/-- A failure leaves every space in canonical form (60 R197). -/
theorem raise_spacesOk (e : Failure) {s : State} (h : Memory.wf s.src) : SpacesOk (raise e s) where
  src := h
  dst := Memory.wf_ofCells _
  head := rising_headOfEntries _
  prev := List.Pairwise.nil
  keys _ := mem_headOfEntries

/-- The input a start command gives is in canonical form, below `srcLen` (10 R33). -/
theorem inputMemory_ok (c : StartCmd) :
    Memory.wf (inputMemory c) ∧ ∀ x ∈ inputMemory c, x.1 < c.srcLen :=
  ⟨Memory.wf_ofCells _, fun x hx => by simpa using (List.mem_filter.1 (Memory.mem_ofCells hx)).2⟩

/-- Placing a token keeps SRC in canonical form. -/
theorem withFetchWord_wf {s : State} (nbits w : Nat) (h : Memory.wf s.src) :
    Memory.wf (s.withFetchWord nbits w).src := by
  refine Memory.wf_writeBytes _ _ (Memory.wf_clear _ _ ?_)
  unfold readyToFetch
  split
  · exact h
  · exact Memory.wf_writeBytes _ _ Memory.wf_nil

/-- Power-on lists nothing, so every space is in canonical form (10 R39). -/
theorem reset_spacesOk : SpacesOk State.reset where
  src := Memory.wf_nil
  dst := Memory.wf_nil
  head := List.Pairwise.nil
  prev := List.Pairwise.nil
  keys e he := by cases he

end Sys2Proof.Machine
end

