-- ==== Sys2Proof/Tests/Slice0.lean ====
section
/-! SUPPORT. Tests. Expected values are the spec's own vectors (95 V1 to V26, the worked examples of 43 R166 to R170) or are
computed by hand from the cited rule; each is one step, or a decoding. The second half holds a witness for the hypotheses
of each statement. -/

namespace Sys2Proof.Tests

open Sys2Proof.Machine

/-- The outcome is a next state with the property. -/
def onNext (o : Host.Outcome State Fault Refusal) (p : State → Bool) : Bool :=
  match o with
  | .next t => p t
  | .fault _ => false
  | .refused _ => false

theorem onNext_some {o : Host.Outcome State Fault Refusal} {p : State → Bool} (h : onNext o p = true) :
    ∃ t, o = .next t ∧ p t = true := by
  cases o with
  | next t => exact ⟨t, rfl, h⟩
  | fault f => cases h
  | refused r => cases h

/-- The operation has failed with `e`. -/
def failedWith (e : Failure) (t : State) : Bool := t.op == .idle && t.status == .failed && t.err == some e

/-- A DECOMPRESS just past a normal header: the stream's tokens, the declared size, the output so far. -/
def dec (size : Nat) (toks out : List Byte) : State :=
  { State.reset with
    op := .decompress, status := .busy
    src := Memory.writeBytes [] 0 (headerBytes size ++ toks), srcLen := 5 + toks.length
    hlen := 5, ip := 5, size := size, wp := out.length, dst := Memory.writeBytes [] 0 out }

/-- A COMPRESS at position `scan` with the given input, nothing emitted after the header. -/
def enc (bs : List Byte) (scan flushed : Nat) (head : HeadTable) (prev : PrevTable) : State :=
  { State.reset with
    op := .compress, status := .busy
    src := Memory.writeBytes [] 0 bs, srcLen := bs.length
    scan := scan, flushed := flushed, head := head, prev := prev
    dlen := 5, dst := Memory.writeBytes [] 0 (headerBytes bs.length) }

/-! ## Well-formedness refuses each ill-formed field (30 R73 to R77) -/

theorem test_wf_short_literal : (Instr.shortMatch 4 3 1).wf = false := by decide
theorem test_wf_short_length_low : (Instr.shortMatch 0 2 1).wf = false := by decide
theorem test_wf_short_length_high : (Instr.shortMatch 0 11 1).wf = false := by decide
theorem test_wf_short_offset_low : (Instr.shortMatch 0 3 0).wf = false := by decide
theorem test_wf_short_offset_high : (Instr.shortMatch 0 3 1025).wf = false := by decide
theorem test_wf_medium_literal : (Instr.mediumMatch 4 4 1).wf = false := by decide
theorem test_wf_medium_length : (Instr.mediumMatch 0 3 1).wf = false ∧ (Instr.mediumMatch 0 68 1).wf = false := by decide
theorem test_wf_medium_offset :
    (Instr.mediumMatch 0 4 0).wf = false ∧ (Instr.mediumMatch 0 4 16385).wf = false := by decide
theorem test_wf_long_literal : (Instr.longMatch 4 5 1).wf = false := by decide
theorem test_wf_long_length : (Instr.longMatch 0 4 1).wf = false ∧ (Instr.longMatch 0 1029 1).wf = false := by decide
theorem test_wf_long_offset :
    (Instr.longMatch 0 5 0).wf = false ∧ (Instr.longMatch 0 5 131073).wf = false := by decide
theorem test_wf_raw_length :
    (Instr.rawRun 0).wf = false ∧ (Instr.rawRun 5).wf = false ∧ (Instr.rawRun 116).wf = false := by decide
theorem test_wf_terminal_literal : (Instr.terminal 4).wf = false := by decide
theorem test_wf_extremes :
    (Instr.shortMatch 3 10 1024).wf = true ∧ (Instr.mediumMatch 3 67 16384).wf = true ∧
      (Instr.longMatch 3 1028 131072).wf = true ∧ (Instr.rawRun 112).wf = true ∧ (Instr.terminal 3).wf = true := by
  decide

/-! ## Decoding (95 V12, V13; 30 R73 to R78) -/

theorem test_decode_short : decode [0x32, 0x2B, 0x61] = .ok (.shortMatch 2 7 300, [0x61]) := by decide
theorem test_decode_short_offset : decode [0x60, 0xFF] = .ok (.shortMatch 0 3 1024, []) := by decide
theorem test_decode_medium : decode [0xBF, 0xFF, 0xFF] = .ok (.mediumMatch 3 67 16384, []) := by decide
theorem test_decode_medium_literal : decode [0x8F, 0x40, 0x00] = .ok (.mediumMatch 1 19 1, []) := by decide
theorem test_decode_long_bit16 : decode [0xD0, 0x00, 0x00, 0x00] = .ok (.longMatch 0 5 65537, []) := by decide
theorem test_decode_long_length : decode [0xC4, 0x00, 0x00, 0x00] = .ok (.longMatch 0 261 1, []) := by decide
theorem test_decode_raw : decode [0xEF] = .ok (.rawRun 64, []) ∧ decode [0xFA] = .ok (.rawRun 108, []) := by decide
theorem test_decode_terminal : decode [0xFC] = .ok (.terminal 0, []) ∧ decode [0xFD] = .ok (.terminal 1, []) := by decide
theorem test_decode_cut_short :
    decode [0x19] = .error (.cutShort .shortMatch) ∧ decode [0x8F, 0x40] = .error (.cutShort .mediumMatch) ∧
      decode [0xC1, 0x00, 0x00] = .error (.cutShort .longMatch) ∧ decode [] = .error .noControlByte := by decide
theorem test_encode :
    encode (.shortMatch 0 3 1024) = [0x60, 0xFF] ∧ encode (.mediumMatch 0 4 1025) = [0x80, 0x04, 0x00] ∧
      encode (.longMatch 2 300 70000) = [0xD6, 0x11, 0x6F, 0x27] ∧ encode (.rawRun 8) = [0xE1] ∧
      encode (.terminal 2) = [0xFE] := by decide
/-- The table's words, first byte least significant: `19 00` and `D6 11 6F 27`. -/
theorem test_decode_table_word :
    decodeTableWord 16 0x0019 = some (.shortMatch 1 9 1) ∧
      decodeTableWord 32 0x276F11D6 = some (.longMatch 2 300 70000) := by decide
/-- 30 R87's syntax. -/
theorem test_listing :
    (Instr.shortMatch 1 9 1).listing [0x61] = "ShortMatch lit=1 len=9 off=1 : 61" := by decide +kernel

/-! ## Tokens (43 R166 to R170, 95 V15) -/

theorem test_short_match :
    onNext (step (dec 10 [0x19, 0x00, 0x61, 0xFC] [])) (fun t =>
      t.ip == 8 && t.wp == 10 && Memory.slice t.dst 0 11 == List.replicate 10 0x61 ++ [0]) = true := by decide +kernel
/-- 95 V15 rows 1 and 23. -/
theorem test_short_match_reach :
    onNext (step (dec 3 [0x00, 0x00, 0xFC] [])) (failedWith .corrupt) = true ∧
      onNext (step (dec 7 [0x00, 0x03, 0xFC] [0x61, 0x62, 0x63, 0x64])) (fun t =>
        Memory.slice t.dst 0 7 == [0x61, 0x62, 0x63, 0x64, 0x61, 0x62, 0x63]) = true := by decide +kernel
theorem test_medium_match :
    onNext (step (dec 20 [0x8F, 0x40, 0x00, 0x61, 0xFC] [])) (fun t =>
      t.ip == 9 && t.wp == 20 && Memory.slice t.dst 0 20 == List.replicate 20 0x61) = true := by decide +kernel
theorem test_long_match :
    onNext (step (dec 100 [0xC1, 0x00, 0x00, 0x5E, 0x61, 0xFC] [])) (fun t =>
      t.ip == 10 && t.wp == 100 && Memory.slice t.dst 0 100 == List.replicate 100 0x61) = true := by decide +kernel
theorem test_raw_run :
    onNext (step (dec 4 [0xE0, 0x61, 0x62, 0x63, 0x64, 0xFC] [])) (fun t =>
      t.ip == 10 && t.wp == 4 && Memory.slice t.dst 0 4 == [0x61, 0x62, 0x63, 0x64]) = true := by decide +kernel
theorem test_terminal :
    onNext (step (dec 3 [0xFF, 0x61, 0x62, 0x63] [])) (fun t =>
      t.ip == 9 && t.wp == 3 && t.dstate == .done && Memory.slice t.dst 0 3 == [0x61, 0x62, 0x63]) = true := by
  decide +kernel
/-- 95 V15 row 6: met with the output full, the Terminal is not read. -/
theorem test_terminal_unread :
    onNext (step (dec 4 [0xFF] [0x61, 0x62, 0x63, 0x64])) (fun t => t.ip == 5 && t.dstate == .done) = true := by
  decide +kernel
/-- 95 V15 row 5. -/
theorem test_missing_terminal :
    onNext (step (dec 4 [] [0x61, 0x62, 0x63, 0x64])) (failedWith .corrupt) = true := by decide +kernel

/-! ## Headers (95 V14) -/

/-- A start command for these bytes. -/
def commanded (c : StartCmd) : State := started State.reset c

theorem test_header_extended :
    onNext (step (commanded (Ref.decompressCmd [0x11, 0xFB, 0x00, 0x00, 0x03, 0xDE, 0xAD, 0xBE, 0xEF, 0xFF])))
      (fun t => t.size == 3 && t.hlen == 9 && t.ip == 9 && t.status == .busy) = true := by decide +kernel
theorem test_header_too_short :
    onNext (step (commanded (Ref.decompressCmd [0x11, 0xFB, 0, 0, 0, 0, 0, 0]))) (failedWith .corrupt) = true := by
  decide +kernel
theorem test_magic :
    onNext (step (commanded (Ref.decompressCmd [0x12, 0xFB, 0, 0, 0]))) (failedWith .invalidMagic) = true ∧
      onNext (step (commanded (Ref.decompressCmd []))) (failedWith .invalidMagic) = true := by decide +kernel
theorem test_input_too_large :
    onNext (step (commanded ⟨.compress none none, [], 0x1000000, true⟩)) (failedWith .inputTooLarge) = true := by
  decide +kernel

/-! ## The encoder (95 V5, V16 c, V17, V24) -/

/-- V17, ten bytes `61`: position 1 emits `19 00 61`. -/
theorem test_position_emits :
    onNext (step (enc (List.replicate 10 0x61) 1 0 [(0x6161, 0)] [(0, none)])) (fun t =>
      t.flushed == 10 && t.scan == 2 && Memory.slice t.dst 5 (t.dlen - 5) == [0x19, 0x00, 0x61]) = true := by
  decide +kernel
/-- V16 d, three bytes `61`: the match of length 2 is rejected. -/
theorem test_position_rejects :
    onNext (step (enc [0x61, 0x61, 0x61] 1 0 [(0x6161, 0)] [(0, none)])) (fun t =>
      t.flushed == 0 && t.dlen == 5 && headRead t 0x6161 == some 1 && prevRead t 1 == some 0) = true := by
  decide +kernel
/-- V5, "abc": the end of the stream is `FF 61 62 63`. -/
theorem test_end_of_stream :
    onNext (step (enc [0x61, 0x62, 0x63] 3 0 [] [])) (fun t =>
      t.status == .done && compressed t == [0x10, 0xFB, 0x00, 0x00, 0x03, 0xFF, 0x61, 0x62, 0x63]) = true := by
  decide +kernel
/-- V22 c: with `W = 1` no candidate is examined. -/
theorem test_window_of_one :
    onNext (step { enc (List.replicate 10 0x61) 1 0 [(0x6161, 0)] [(0, none)] with windowBits := 0 }) (fun t =>
      t.flushed == 0 && t.dlen == 5) = true := by decide +kernel

/-! ## The host (60 R212, 70 R225, R227) -/

theorem test_busy_refused :
    step { dec 4 [0xFC] [] with port := some (.start (Ref.decompressCmd [])) } = .refused .startWhileBusy := rfl

/-- A table word placed after reset is fetched and run by the next step: `E0` and four zero literals. -/
theorem test_with_fetch_word :
    onNext (step (State.reset.withFetchWord 8 0xE0)) (fun t => t.op == .decompress && t.wp == 4 && t.ip == 10) = true := by
  decide +kernel

/-- The reset memory is canonical. -/
theorem test_reset_memory : Memory.wf State.reset.src ∧ Memory.wf State.reset.dst := by decide

/-! ## Witnesses: a state or operands that meet the hypotheses of each statement, clause by clause, at a boundary -/

theorem witness_DecodeOfEncode : (Instr.longMatch 3 1028 131072).wf = true := by decide
theorem witness_EncodeOfDecode : decode [0xDF, 0xFF, 0xFF, 0xFF, 0xFC] = .ok (.longMatch 3 1028 131072, [0xFC]) := by
  decide
/-- 95 V13's boundary values. -/
theorem witness_FirstByteSelectsKind :
    kindOf 0x00 = .shortMatch ∧ kindOf 0x7F = .shortMatch ∧ kindOf 0x80 = .mediumMatch ∧ kindOf 0xBF = .mediumMatch ∧
      kindOf 0xC0 = .longMatch ∧ kindOf 0xDF = .longMatch ∧ kindOf 0xE0 = .rawRun ∧ kindOf 0xFB = .rawRun ∧
      kindOf 0xFC = .terminal ∧ kindOf 0xFF = .terminal := by decide
theorem witness_TokenLengths :
    (Instr.shortMatch 3 10 1024).produced = 13 ∧ (Instr.mediumMatch 3 67 16384).produced = 70 ∧
      (Instr.longMatch 3 1028 131072).produced = 1031 ∧ (Instr.rawRun 112).produced = 112 ∧
      (Instr.terminal 3).produced = 3 := by decide

theorem witness_CompressStarts_fits : ({ State.reset with srcLen := 0xFFFFFF }).srcLen ≤ 0xFFFFFF := by decide
theorem witness_CompressStarts_too_large : 0xFFFFFF < ({ State.reset with srcLen := 0x1000000 }).srcLen := by decide

/-- `10 FB 00 00 00` and no more, `12 FB`, and `11 FB` with 8 bytes: the three clauses of the header read. -/
theorem witness_DecompressStarts_reads :
    let s := dec 0 [] []
    2 ≤ s.srcLen ∧ (Memory.read s.src 0).toNat = 0x10 ∧ (Memory.read s.src 1).toNat = 0xFB ∧ 5 ≤ s.srcLen := by decide
theorem witness_DecompressStarts_magic :
    let s : State := { State.reset with src := [(0, 0x12), (1, 0xFB)], srcLen := 9 }
    ¬(((Memory.read s.src 0).toNat = 0x10 ∨ (Memory.read s.src 0).toNat = 0x11) ∧
      (Memory.read s.src 1).toNat = 0xFB) := by decide
theorem witness_DecompressStarts_short :
    let s : State := { State.reset with src := [(0, 0x11), (1, 0xFB)], srcLen := 8 }
    2 ≤ s.srcLen ∧ (Memory.read s.src 0).toNat = 0x11 ∧ (Memory.read s.src 1).toNat = 0xFB ∧ s.srcLen < 9 := by decide

/-- Every whole-operation statement starts from an idle block, here power-on, with legal parameters at their
limits (HeaderFidelity, StartLatchesParameters, CompressIsOneFunction, RoundTrip, DecompressIsOneFunction). -/
theorem witness_RoundTrip :
    State.reset.status ≠ .busy ∧ ([0x61, 0x61] : List Byte).length ≤ 0xFFFFFF ∧ windowBitsOk (some 17) = true ∧
      windowBitsOk (some 0) = true ∧ windowBitsOk none = true ∧ maxHopsOk (some 0) = true ∧ maxHopsOk none = true := by
  decide

/-- The offset reaches exactly `DST[0]`, and one byte before it. -/
theorem witness_MatchTokensExecute_in_bounds : MatchInBounds (dec 7 [0x61] [0x61, 0x62, 0x63, 0x64]) 0 0 3 4 :=
  ⟨.inl rfl, by decide, by decide⟩
theorem witness_MatchTokensExecute_offset : ¬MatchInBounds (dec 7 [0x61] [0x61, 0x62, 0x63, 0x64]) 0 0 3 5 :=
  fun h => absurd h.2.1 (by decide)
theorem witness_RawRunExecutes_fits :
    let s := dec 4 [0x61, 0x62, 0x63, 0x64] []
    s.ip + 4 ≤ s.srcLen ∧ s.wp + 4 ≤ s.size := by decide
theorem witness_RawRunExecutes_short :
    let s := dec 4 [0x61, 0x62, 0x63] []
    s.srcLen < s.ip + 4 ∨ s.size < s.wp + 4 := by decide
theorem witness_TerminalExecutes_full : (dec 1 [0xFF] [0x61]).size ≤ (dec 1 [0xFF] [0x61]).wp := by decide
theorem witness_TerminalExecutes_literals :
    let s := dec 3 [0xFF, 0x61, 0x62, 0x63] []
    s.wp < s.size ∧ LiteralsThere s 1 3 ∧ s.wp + 3 ≤ s.size := ⟨by decide, .inr (by decide), by decide⟩
theorem witness_TerminalExecutes_short :
    let s := dec 3 [0xFF, 0x61, 0x62] []
    s.wp < s.size ∧ ¬(LiteralsThere s 1 3 ∧ s.wp + 3 ≤ s.size) :=
  ⟨by decide, fun h => h.1.elim (by decide) (by decide)⟩
/-- A copy of four bytes from one behind, and one that ends at the size. -/
theorem witness_BackCopyIsPeriodic :
    ∃ t, 0 < 1 ∧ backCopy 4 1 (dec 5 [] [0x61]) = .ok t ∧ 3 < 4 := ⟨_, by decide, rfl, by decide⟩

/-- The decoder is about to fetch. -/
theorem dec_fetching (size : Nat) (toks out : List Byte) : Fetching (dec size toks out) := ⟨rfl, rfl, rfl⟩

theorem witness_StepRunsToken :
    let s := dec 10 [0x19, 0x00, 0x61, 0xFC] []
    Fetching s ∧ (Instr.shortMatch 1 9 1).wf = true ∧ s.ip + Kind.shortMatch.controlBytes ≤ s.srcLen ∧
      Memory.slice s.src s.ip Kind.shortMatch.controlBytes = encode (.shortMatch 1 9 1) :=
  ⟨dec_fetching _ _ _, by decide, by decide, by decide⟩
theorem witness_StepRunsToken_terminal :
    let s := dec 3 [0xFF, 0x61, 0x62, 0x63] []
    Fetching s ∧ (Instr.terminal 3).wf = true ∧ s.ip + Kind.terminal.controlBytes ≤ s.srcLen ∧
      Memory.slice s.src s.ip Kind.terminal.controlBytes = encode (.terminal 3) :=
  ⟨dec_fetching _ _ _, by decide, by decide, by decide⟩

theorem witness_ShortMatchSteps_completes :
    let s := dec 10 [0x19, 0x00, 0x61, 0xFC] []
    Fetching s ∧ s.ip < s.srcLen ∧ streamByte s 0 < 0x80 ∧ s.ip + 2 ≤ s.srcLen ∧ MatchInBounds s 2 1 9 1 :=
  ⟨dec_fetching _ _ _, by decide, by decide, by decide, .inr (by decide), by decide, by decide⟩
theorem witness_ShortMatchSteps_cut_short :
    let s := dec 10 [0x7F] []
    Fetching s ∧ s.ip < s.srcLen ∧ streamByte s 0 < 0x80 ∧ ¬s.ip + 2 ≤ s.srcLen :=
  ⟨dec_fetching _ _ _, by decide, by decide, by decide⟩
theorem witness_MediumMatchSteps_completes :
    let s := dec 20 [0x8F, 0x40, 0x00, 0x61, 0xFC] []
    Fetching s ∧ s.ip < s.srcLen ∧ 0x80 ≤ streamByte s 0 ∧ streamByte s 0 < 0xC0 ∧ s.ip + 3 ≤ s.srcLen ∧
      MatchInBounds s 3 1 19 1 :=
  ⟨dec_fetching _ _ _, by decide, by decide, by decide, by decide, .inr (by decide), by decide, by decide⟩
theorem witness_MediumMatchSteps_cut_short :
    let s := dec 20 [0xBF, 0x40] []
    Fetching s ∧ s.ip < s.srcLen ∧ 0x80 ≤ streamByte s 0 ∧ streamByte s 0 < 0xC0 ∧ ¬s.ip + 3 ≤ s.srcLen :=
  ⟨dec_fetching _ _ _, by decide, by decide, by decide, by decide⟩
theorem witness_LongMatchSteps_completes :
    let s := dec 100 [0xC1, 0x00, 0x00, 0x5E, 0x61, 0xFC] []
    Fetching s ∧ s.ip < s.srcLen ∧ 0xC0 ≤ streamByte s 0 ∧ streamByte s 0 < 0xE0 ∧ s.ip + 4 ≤ s.srcLen ∧
      MatchInBounds s 4 1 99 1 :=
  ⟨dec_fetching _ _ _, by decide, by decide, by decide, by decide, .inr (by decide), by decide, by decide⟩
theorem witness_LongMatchSteps_cut_short :
    let s := dec 100 [0xDF, 0x00, 0x00] []
    Fetching s ∧ s.ip < s.srcLen ∧ 0xC0 ≤ streamByte s 0 ∧ streamByte s 0 < 0xE0 ∧ ¬s.ip + 4 ≤ s.srcLen :=
  ⟨dec_fetching _ _ _, by decide, by decide, by decide, by decide⟩
theorem witness_RawRunSteps_completes :
    let s := dec 4 [0xE0, 0x61, 0x62, 0x63, 0x64] []
    Fetching s ∧ s.ip < s.srcLen ∧ 0xE0 ≤ streamByte s 0 ∧ streamByte s 0 < 0xFC ∧ s.ip + 1 + 4 ≤ s.srcLen ∧
      s.wp + 4 ≤ s.size := ⟨dec_fetching _ _ _, by decide⟩
theorem witness_RawRunSteps_no_room :
    let s := dec 3 [0xE0, 0x61, 0x62, 0x63, 0x64] []
    Fetching s ∧ s.ip < s.srcLen ∧ 0xE0 ≤ streamByte s 0 ∧ streamByte s 0 < 0xFC ∧
      ¬(s.ip + 1 + 4 ≤ s.srcLen ∧ s.wp + 4 ≤ s.size) := ⟨dec_fetching _ _ _, by decide⟩
theorem witness_TerminalSteps_full :
    let s := dec 1 [0xFF] [0x61]
    Fetching s ∧ s.ip < s.srcLen ∧ 0xFC ≤ streamByte s 0 ∧ s.size ≤ s.wp := ⟨dec_fetching _ _ _, by decide⟩
theorem witness_TerminalSteps_completes :
    let s := dec 1 [0xFD, 0x61] []
    Fetching s ∧ s.ip < s.srcLen ∧ 0xFC ≤ streamByte s 0 ∧ s.wp < s.size ∧ LiteralsThere s 1 1 ∧ s.wp + 1 ≤ s.size :=
  ⟨dec_fetching _ _ _, by decide, by decide, by decide, .inr (by decide), by decide⟩
theorem witness_TerminalSteps_no_room :
    let s := dec 1 [0xFE, 0x61, 0x62] []
    Fetching s ∧ s.ip < s.srcLen ∧ 0xFC ≤ streamByte s 0 ∧ s.wp < s.size ∧
      ¬(LiteralsThere s 1 2 ∧ s.wp + 2 ≤ s.size) :=
  ⟨dec_fetching _ _ _, by decide, by decide, by decide, fun h => absurd h.2 (by decide)⟩

/-- A token completes and the loop goes on (IpAdvancesByTokenLength, LoopProgress, OutputNeverRewritten). -/
theorem witness_LoopProgress :
    ∃ t, Fetching (dec 10 [0x00, 0x00, 0xFC] [0x61]) ∧ step (dec 10 [0x00, 0x00, 0xFC] [0x61]) = .next t ∧
      t.op = .decompress ∧ t.dstate = .running ∧ t.status ≠ .failed := by
  obtain ⟨t, h, hp⟩ := onNext_some (o := step (dec 10 [0x00, 0x00, 0xFC] [0x61]))
    (p := fun t => t.op == .decompress && t.dstate == .running && t.status == .busy) (by decide +kernel)
  simp only [Bool.and_eq_true, beq_iff_eq] at hp
  exact ⟨t, dec_fetching _ _ _, h, hp.1.1, hp.1.2, by rw [hp.2]; decide⟩
theorem witness_MissingTerminalIsCorrupt : Fetching (dec 0 [] []) ∧ (dec 0 [] []).srcLen ≤ (dec 0 [] []).ip :=
  ⟨dec_fetching _ _ _, by decide⟩
theorem witness_FinalCheckDecides :
    let s := { dec 1 [] [0x61] with dstate := .done }
    let t := { dec 1 [] [] with dstate := .done }
    s.port = none ∧ s.op = .decompress ∧ s.dstate = .done ∧ s.wp = s.size ∧
      t.port = none ∧ t.op = .decompress ∧ t.dstate = .done ∧ t.wp ≠ t.size := by decide

/-- An idle block after a success and one at power-on, with the same count of free values. -/
theorem witness_StartIsFresh :
    State.reset.status ≠ .busy ∧ (complete (dec 1 [] [0x61])).status ≠ .busy ∧
      State.reset.hdrExtLen = (complete (dec 1 [] [0x61])).hdrExtLen ∧
      State.reset.draw = (complete (dec 1 [] [0x61])).draw := by decide
/-- Two states that agree on SRC, the port, `HDR_EXT_LEN` and the count of free values, with different outputs. -/
theorem witness_RaiseDiscardsOperation :
    (dec 2 [] []).src = (dec 2 [] [0x61]).src ∧ (dec 2 [] []).port = (dec 2 [] [0x61]).port ∧
      (dec 2 [] []).hdrExtLen = (dec 2 [] [0x61]).hdrExtLen ∧ (dec 2 [] []).draw = (dec 2 [] [0x61]).draw ∧
      (dec 2 [] []).dst ≠ (dec 2 [] [0x61]).dst := by decide

/-- The extended header of test_header_extended with `HDR_EXT_LEN` 8, and a normal header with either value
(ExtensionLengthIsAParameter, DecompressStarts). -/
theorem witness_ExtensionLengthIsAParameter :
    let s := { commanded (Ref.decompressCmd [0x10, 0xFB, 0, 0, 0]) with hdrExtLen := .eight }
    (∃ t, step s = .next t) ∧ Memory.read (inputMemory (Ref.decompressCmd [0x10, 0xFB, 0, 0, 0])) 0 ≠ 0x11 :=
  ⟨⟨_, rfl⟩, by decide⟩
theorem test_header_extended_eight :
    onNext (step { commanded (Ref.decompressCmd [0x11, 0xFB, 0, 0, 0, 0, 0, 0]) with hdrExtLen := .eight })
      (fun t => t.hlen == 8 && t.ip == 8 && t.status == .busy && t.hdrExtLen == .eight) = true := by decide +kernel

/-- An input of 0x1000000 bytes meets the last clause of StartLatchesParameters, one of 0xFFFFFF bytes the clause
before it. -/
theorem witness_StartLatchesParameters :
    State.reset.status ≠ .busy ∧ windowBitsOk none = true ∧ maxHopsOk none = true ∧
      (List.replicate 0xFFFFFF (0x61 : Byte)).length ≤ 0xFFFFFF ∧
      0xFFFFFF < (List.replicate 0x1000000 (0x61 : Byte)).length ∧
      (List.replicate 0x1000000 (0x61 : Byte)).length < 2 ^ 32 := by
  rw [List.length_replicate, List.length_replicate]
  decide

/-- One failure of each kind (FailuresByOperation). -/
theorem witness_FailuresByOperation :
    onNext (step (commanded ⟨.compress none none, [], 0x1000000, true⟩)) (failedWith .inputTooLarge) = true ∧
      onNext (step (commanded (Ref.decompressCmd [0x10]))) (failedWith .invalidMagic) = true ∧
      onNext (step (commanded (Ref.decompressCmd [0x10, 0xFB]))) (failedWith .corrupt) = true ∧
      onNext (step (dec 1 [0xFC, 0x00] [])) (fun t => t.dstate == .done) = true ∧
      onNext (step (dec 0 [] [])) (failedWith .corrupt) = true := by decide +kernel

theorem witness_SuccessEndsOperation :
    onNext (step { dec 1 [] [0x61] with dstate := .done }) (fun t => t.op == .idle && t.status == .done) = true ∧
      onNext (step (enc [] 0 0 [] [])) (fun t => t.op == .idle && t.status == .done) = true := by decide +kernel

/-- The invariant holds of a state in which a token of DECOMPRESS is about to run, and the token runs (InvariantKept,
DecompressEnds, OperationsKeepToTheirRegisters, InputsNeverWritten, BytesBehindAndAfterIgnored). -/
theorem dec_inv : Inv (dec 10 [0x00, 0x00, 0xFC] [0x61]) where
  spaces := ⟨by decide, by decide, by decide, by decide, by decide⟩
  flags := ⟨by decide, by decide⟩
  input _ := ⟨by decide, by decide⟩
  decoder _ := ⟨by decide, by decide, by decide, by decide, by decide, by decide, by decide⟩
  encoder h := by cases h
theorem witness_InvariantKept_decompress :
    Inv (dec 10 [0x00, 0x00, 0xFC] [0x61]) ∧ ∃ t, step (dec 10 [0x00, 0x00, 0xFC] [0x61]) = .next t := by
  obtain ⟨t, _, h, _⟩ := witness_LoopProgress
  exact ⟨dec_inv, t, h⟩

/-- A COMPRESS about to evaluate its first position. -/
def atFirst : State := enc [0x61, 0x61, 0x61, 0x61] 0 0 [] []

theorem enc_inv : Inv atFirst where
  spaces := ⟨by decide, by decide, by decide, by decide, by decide⟩
  flags := ⟨by decide, by decide⟩
  input _ := ⟨by decide, by decide⟩
  decoder h := by cases h
  encoder _ := ⟨by decide, by decide, by decide, by decide, by decide, by decide, by decide, by decide, by decide⟩
theorem atFirst_encoding : Encoding atFirst := ⟨rfl, rfl⟩
theorem atFirst_chains : ChainsOk atFirst := ⟨fun _ => rfl, fun q h => absurd h (Nat.not_lt_zero q)⟩
theorem atFirst_prefix : PrefixDecodes atFirst := fun _ _ _ => rfl

/-- The first position completes (InvariantKept, PrefixDecodesKept, ChainsKept, InitialPrevNeverRead, SearchIsTableFree,
PositionEmitsAcceptedMatch, CompressEnds). -/
theorem witness_PrefixDecodesKept :
    ∃ t, Inv atFirst ∧ Encoding atFirst ∧ PrefixDecodes atFirst ∧ ChainsOk atFirst ∧ step atFirst = .next t ∧
      t.op = .compress ∧ atFirst.scan + 1 < atFirst.srcLen ∧ atFirst.flushed ≤ atFirst.scan := by
  obtain ⟨t, h, hp⟩ := onNext_some (o := step atFirst) (p := fun t => t.op == .compress) (by decide +kernel)
  exact ⟨t, enc_inv, atFirst_encoding, atFirst_prefix, atFirst_chains, h, by simpa using hp, by decide, by decide⟩

/-- The second position of four bytes `61` finds `(3, 1)` and accepts it; the third is covered; the last only
advances (PositionEmitsAcceptedMatch, MatchFoundIsReal, CoveredPositionOnlyInserts, LastByteOnlyAdvances). -/
theorem witness_PositionEmitsAcceptedMatch :
    let s := enc [0x61, 0x61, 0x61, 0x61] 1 0 [(0x6161, 0)] [(0, none)]
    let u := finderStep true s
    Encoding s ∧ s.scan + 1 < s.srcLen ∧ s.flushed ≤ s.scan ∧ u.bestLen = 3 ∧ u.bestOff = 1 ∧
      accept u.bestLen u.bestOff = true := ⟨⟨rfl, rfl⟩, by decide +kernel⟩
theorem witness_PositionEmitsAcceptedMatch_rejected :
    accept (finderStep true atFirst).bestLen (finderStep true atFirst).bestOff = false := by decide +kernel
theorem witness_CoveredPositionOnlyInserts :
    let s := enc [0x61, 0x61, 0x61, 0x61] 2 4 [(0x6161, 1)] [(0, none), (1, some 0)]
    Encoding s ∧ s.scan + 1 < s.srcLen ∧ s.scan < s.flushed := ⟨⟨rfl, rfl⟩, by decide⟩
theorem witness_LastByteOnlyAdvances :
    let s := enc [0x61, 0x61, 0x61, 0x61] 3 4 [(0x6161, 2)] []
    Encoding s ∧ s.scan + 1 = s.srcLen := ⟨⟨rfl, rfl⟩, by decide⟩
theorem witness_StreamEndsWithTerminal :
    let s := enc [0x61, 0x62, 0x63] 3 0 [] []
    Encoding s ∧ s.scan = s.srcLen ∧ s.flushed ≤ s.srcLen := ⟨⟨rfl, rfl⟩, by decide⟩
theorem witness_OutputLengthBound :
    ∃ t, Inv (enc [] 0 0 [] []) ∧ Encoding (enc [] 0 0 [] []) ∧ step (enc [] 0 0 [] []) = .next t ∧ t.op = .idle :=
  ⟨_, ⟨⟨by decide, by decide, by decide, by decide, by decide⟩, ⟨by decide, by decide⟩,
    fun _ => ⟨by decide, by decide⟩, (fun h => by cases h),
    fun _ => ⟨by decide, by decide, by decide, by decide, by decide, by decide, by decide, by decide, by decide⟩⟩,
    ⟨rfl, rfl⟩, rfl, rfl⟩
theorem witness_LoopInvariantsAtStart : atFirst.srcLen ≤ 0xFFFFFF := by decide

/-- One command for each clause, at the first value outside the contract. -/
theorem witness_HostActsRefused :
    State.reset.status ≠ .busy ∧
      step (commanded ⟨.decompress, [], 2 ^ 32, true⟩) = .refused .srcLenTooLarge ∧
      step (commanded ⟨.decompress, [], 0, false⟩) = .refused .buffersOverlap ∧
      step (commanded ⟨.compress (some 18) none, [], 0, true⟩) = .refused .windowBitsOutOfRange ∧
      step (commanded ⟨.compress (some (-1)) none, [], 0, true⟩) = .refused .windowBitsOutOfRange ∧
      step (commanded ⟨.compress (some 17) (some (-1)), [], 0, true⟩) = .refused .maxHopsNegative ∧
      step { dec 0 [] [] with port := some (.access .src) } = .refused .accessWhileBusy :=
  ⟨by decide, rfl, rfl, rfl, rfl, rfl, rfl⟩
theorem witness_BytesBehindAndAfterIgnored :
    let s := { dec 1 [] [0x61] with dstate := .done }
    s.port = none ∧ s.op = .decompress ∧ s.dstate = .done ∧ step s = .next (complete s) := ⟨rfl, rfl, rfl, rfl⟩
theorem witness_SelectedShapeFits :
    (131072 ≤ 131072 ∧ 3 ≤ 3 ∧ accept 1028 131071 = true ∧ 131071 < 131072) ∧ accept 10 1024 = true ∧
      accept 67 16384 = true ∧ accept 3 1024 = true ∧ accept 4 16384 = true := by decide
theorem witness_FlushCoversGap : (enc [0x61] 1 0 [] []).flushed ≤ 1 := by decide
theorem witness_EqualMemoriesAreEqualData : Memory.wf [(0, 0x61), (2, 0x62)] := by decide

end Sys2Proof.Tests
end

/-! SUPPORT. `HDR_EXT_LEN` as a parameter (00 R6, 43 R182, 92 D17; log 12). Every operation of the machine commutes with
setting it, so a step is the same for its two values, except where `startDecompress` reads it. -/

namespace Sys2Proof.Machine

/-- The machine with `e` as its `HDR_EXT_LEN`. -/
def withExt (e : HdrExtLen) (s : State) : State := { s with hdrExtLen := e }

/-- The outcome with the next state, if there is one, changed by `f`. -/
def mapNext (f : State → State) : Host.Outcome State Fault Refusal → Host.Outcome State Fault Refusal
  | .next t => .next (f t)
  | .fault r => .fault r
  | .refused r => .refused r

section
variable (e : HdrExtLen)

/-! ## Outcomes -/

theorem settle_withExt (s : State) (r : Except Failure State) :
    settle (withExt e s) (r.map (withExt e)) = mapNext (withExt e) (settle s r) := by
  cases r <;> rfl

theorem endToken_withExt (o : Host.Outcome State Fault Refusal) :
    endToken (mapNext (withExt e) o) = mapNext (withExt e) (endToken o) := by
  cases o with
  | next t => exact congrArg Host.Outcome.next (apply_ite (withExt e) (t.op = .decompress) (dropTokenTemps t) t).symm
  | fault => rfl
  | refused => rfl

/-! ## DECOMPRESS after its header -/

theorem litCopy_withExt (k : Nat) (s : State) : litCopy k (withExt e s) = (litCopy k s).map (withExt e) := by
  by_cases h : LiteralsFit k s
  · rw [litCopy_ok h, litCopy_ok (s := withExt e s) h]
    rfl
  · rw [litCopy_error h, litCopy_error (s := withExt e s) h]
    rfl

theorem copyMatch_withExt (lit mlen off : Nat) (s : State) :
    copyMatch lit mlen off (withExt e s) = (copyMatch lit mlen off s).map (withExt e) := by
  by_cases h : MatchFits lit mlen off s
  · rw [copyMatch_ok h, copyMatch_ok (s := withExt e s) h]
    rfl
  · rw [copyMatch_error h, copyMatch_error (s := withExt e s) h]
    rfl

theorem readTerminal_withExt (lit : Nat) (s : State) :
    readTerminal lit (withExt e s) = (readTerminal lit s).map (withExt e) := by
  by_cases h : s.wp < s.size
  · rw [readTerminal, readTerminal, if_pos h, if_pos (show (withExt e s).wp < (withExt e s).size from h)]
    exact litCopy_withExt e lit { s with ip := s.ip + 1, lit := lit }
  · rw [readTerminal_unread (Nat.le_of_not_lt h), readTerminal_unread (s := withExt e s) (Nat.le_of_not_lt h)]
    rfl

/-- Every token is the same for both values of the parameter (43 R182). -/
theorem exec_withExt (i : Instr) (s : State) : exec i (withExt e s) = mapNext (withExt e) (exec i s) := by
  have hm (lit mlen off : Nat) : settle (withExt e s) (copyMatch lit mlen off (withExt e s)) =
      mapNext (withExt e) (settle s (copyMatch lit mlen off s)) := by
    rw [copyMatch_withExt, settle_withExt]
  cases i with
  | shortMatch => exact hm ..
  | mediumMatch => exact hm ..
  | longMatch => exact hm ..
  | rawRun len =>
    have h := litCopy_withExt e len { s with lit := len }
    exact (congrArg (settle _) h).trans (settle_withExt e s _)
  | terminal lit =>
    have h : (readTerminal lit (exitLoop (withExt e s))).map markDone =
        ((readTerminal lit (exitLoop s)).map markDone).map (withExt e) := by
      refine (congrArg (Except.map markDone) (readTerminal_withExt e lit (exitLoop s))).trans ?_
      cases readTerminal lit (exitLoop s) <;> rfl
    exact (congrArg (settle _) h).trans (settle_withExt e s _)

theorem fetched_withExt (k : Kind) (s : State) : fetched k (withExt e s) = withExt e (fetched k s) := by
  cases k <;> rfl

theorem tokenStep_withExt (s : State) : tokenStep (withExt e s) = mapNext (withExt e) (tokenStep s) := by
  have hw : controlWindow (withExt e s) = controlWindow s := rfl
  rw [tokenStep, tokenStep, hw]
  split
  · rfl
  · rw [fetched_withExt, exec_withExt, endToken_withExt]

theorem finalCheck_withExt (s : State) : finalCheck (withExt e s) = mapNext (withExt e) (finalCheck s) := by
  rw [finalCheck, finalCheck, apply_ite (mapNext (withExt e))]
  rfl

theorem decompressStep_withExt (s : State) :
    decompressStep (withExt e s) = mapNext (withExt e) (decompressStep s) := by
  have hd : (withExt e s).dstate = s.dstate := rfl
  rw [decompressStep, decompressStep, hd]
  split
  · exact tokenStep_withExt e s
  · exact (congrArg endToken (exec_withExt e _ s)).trans (endToken_withExt e _)
  · exact finalCheck_withExt e s

/-! ## COMPRESS after its header -/

theorem updateBest_withExt (c : Nat) (s : State) : updateBest c (withExt e s) = withExt e (updateBest c s) := by
  rw [updateBest, updateBest, apply_ite (withExt e)]
  rfl

theorem examine_withExt (c : Nat) (s : State) : examine c (withExt e s) = withExt e (examine c s) := by
  have h := updateBest_withExt e c { s with
    hops := s.hops + 1
    curLen := prefixLen s.src s.scan c (matchCap s) }
  exact congrArg (fun t : State => { t with cand := prevRead t (c % window t) }) h

theorem walk_withExt (fuel : Nat) (s : State) : walk fuel (withExt e s) = withExt e (walk fuel s) := by
  induction fuel generalizing s with
  | zero => rfl
  | succ fuel ih =>
    have hc : (withExt e s).cand = s.cand := rfl
    rw [walk, walk, hc]
    split
    · rfl
    · rename_i c _
      rw [apply_ite (withExt e), ← ih, ← examine_withExt]
      rfl

theorem finderStep_withExt (b : Bool) (s : State) : finderStep b (withExt e s) = withExt e (finderStep b s) := by
  cases b
  · rfl
  · exact walk_withExt e s.maxHops { insertPosition (computeKey s) with bestLen := 0, hops := 0 }

theorem emit_withExt (i : Instr) (s : State) : emit i (withExt e s) = withExt e (emit i s) := by
  rw [emit_eq, emit_eq, appendAll_eq, appendAll_eq]
  rfl

theorem flushRun_withExt (len : Nat) (s : State) : flushRun len (withExt e s) = withExt e (flushRun len s) := by
  rw [flushRun, emit_withExt]
  rfl

theorem flushLoop_withExt (fuel upto : Nat) (s : State) :
    flushLoop fuel upto (withExt e s) = withExt e (flushLoop fuel upto s) := by
  induction fuel generalizing s with
  | zero => rfl
  | succ fuel ih =>
    rw [flushLoop, flushLoop, apply_ite (withExt e), ← ih, ← flushRun_withExt]
    rfl

theorem flush_withExt (upto : Nat) (s : State) : flush upto (withExt e s) = withExt e (flush upto s) :=
  congrArg (fun t : State => { t with lit := upto - t.flushed }) (flushLoop_withExt e _ upto s)

theorem emitMatch_withExt (s : State) : emitMatch (withExt e s) = mapNext (withExt e) (emitMatch s) := by
  have hf : flush (withExt e s).scan (withExt e s) = withExt e (flush s.scan s) := flush_withExt e s.scan s
  rw [emitMatch, emitMatch, hf]
  generalize flush s.scan s = u
  have hs : select (window (withExt e u)) (withExt e u).lit (withExt e u).bestLen (withExt e u).bestOff =
    select (window u) u.lit u.bestLen u.bestOff := rfl
  dsimp only
  rw [hs]
  split
  · rfl
  · rw [emit_withExt]
    rfl

theorem scanBody_withExt (s : State) : scanBody (withExt e s) = mapNext (withExt e) (scanBody s) := by
  have hf : finderStep (decide ((withExt e s).scan ≥ (withExt e s).flushed)) (withExt e s) =
    withExt e (finderStep (decide (s.scan ≥ s.flushed)) s) := finderStep_withExt e _ s
  have hm (u : State) : emitMatch (clamp (withExt e u)) = mapNext (withExt e) (emitMatch (clamp u)) :=
    emitMatch_withExt e (clamp u)
  rw [scanBody, scanBody, hf]
  dsimp only
  rw [hm]
  simp only [apply_ite (mapNext (withExt e))]
  rfl

/-- Every position, and the end of the stream, is the same for both values of the parameter. -/
theorem compressStep_withExt (s : State) : compressStep (withExt e s) = mapNext (withExt e) (compressStep s) := by
  have hend : finishStream (withExt e s) = withExt e (finishStream s) := by
    have hf : flush (withExt e s).srcLen (withExt e s) = withExt e (flush s.srcLen s) := flush_withExt e s.srcLen s
    rw [finishStream, hf]
    exact congrArg (fun u : State => { u with flushed := u.flushed + u.lit }) (emit_withExt e _ _)
  obtain ⟨t, ht, -⟩ := scanBody_next s
  rw [compressStep, compressStep, apply_ite (mapNext (withExt e)), scanBody_withExt, ht, hend]
  rfl

/-! ## The start steps and the host's acts -/

theorem latch_withExt (c : StartCmd) (s : State) : latch c (withExt e s) = withExt e (latch c s) := by
  rw [latch, latch]
  split <;> rfl

theorem startCompress_withExt (s : State) : startCompress (withExt e s) = mapNext (withExt e) (startCompress s) := by
  rw [startCompress_eq, startCompress_eq, apply_ite (mapNext (withExt e))]
  rfl

/-- A header that passes the magic check without first byte 0x11 is a normal one (40 R102, R103). -/
theorem headerLength_normal {s : State} (hm : magicOk s = true) (h11 : Memory.read s.src 0 ≠ 0x11) (ext : Nat) :
    headerLength ext s = Config.hdrLen := by
  have hne : (Memory.read s.src 0).toNat ≠ Config.magic0Ext := fun h => h11 (BitVec.eq_of_toNat_eq h)
  simp only [magicOk, Bool.and_eq_true, Bool.or_eq_true, beq_iff_eq] at hm
  have h0 : (Memory.read s.src 0).toNat = Config.magic0 := hm.1.resolve_right hne
  rw [headerLength, h0]
  rfl

/-- Reading a header whose first byte is not 0x11 does not depend on `HDR_EXT_LEN` (40 R103). -/
theorem readHeader_ext_irrelevant {s : State} (h11 : Memory.read s.src 0 ≠ 0x11) (a b : Nat) :
    readHeader a s = readHeader b s := by
  cases hm : magicOk s with
  | false => simp [readHeader, hm]
  | true => rw [readHeader, readHeader, headerLength_normal hm h11 a, headerLength_normal hm h11 b]

theorem readHeader_withExt (ext : Nat) (s : State) :
    readHeader ext (withExt e s) = (readHeader ext s).map (withExt e) := by
  rw [readHeader, readHeader]
  simp only [apply_ite (Except.map (withExt e))]
  rfl

/-- The start of DECOMPRESS on a first byte other than 0x11 is the same for both values of the parameter. -/
theorem startDecompress_withExt {s : State} (h11 : Memory.read s.src 0 ≠ 0x11) :
    startDecompress (withExt e s) = mapNext (withExt e) (startDecompress s) := by
  rw [startDecompress, startDecompress, readHeader_withExt, settle_withExt,
    readHeader_ext_irrelevant h11 _ (extLength s.hdrExtLen)]

/-- The start step of `c` finds the input of `c` in SRC (10 R33). -/
theorem latch_src (c : StartCmd) (s : State) : (latch c s).src = inputMemory c := by
  rw [latch]
  split <;> rfl

theorem startOperation_withExt {c : StartCmd} (s : State)
    (h11 : c.job = .decompress → Memory.read (inputMemory c) 0 ≠ 0x11) :
    startOperation c (withExt e s) = mapNext (withExt e) (startOperation c s) := by
  rw [startOperation, startOperation]
  split
  · rfl
  · rw [latch_withExt]
    split
    · exact startCompress_withExt e _
    · exact startDecompress_withExt e (by rw [latch_src]; exact h11 ‹_›)

theorem hostStep_withExt {a : HostAct} (s : State)
    (h11 : ∀ c, a = .start c → c.job = .decompress → Memory.read (inputMemory c) 0 ≠ 0x11) :
    hostStep a (withExt e s) = mapNext (withExt e) (hostStep a s) := by
  have hb : (withExt e s).busy = s.busy := rfl
  cases a with
  | start c =>
    rw [hostStep, hostStep, startOperation_withExt e s (h11 c rfl), apply_ite (mapNext (withExt e)), hb]
    rfl
  | access sp =>
    simp only [hostStep, apply_ite (mapNext (withExt e)), hb]
    cases sp <;> rfl
  | cancel => rfl

/-! ## The step -/

/-- Unless it starts a DECOMPRESS on first byte 0x11, a step is the same for both values of the parameter. -/
theorem step_withExt {s : State}
    (h11 : ∀ c, s.port = some (.start c) → c.job = .decompress → Memory.read (inputMemory c) 0 ≠ 0x11) :
    step (withExt e s) = mapNext (withExt e) (step s) := by
  have hp : (withExt e s).port = s.port := rfl
  have ho : (withExt e s).op = s.op := rfl
  rw [step, step, hp, ho]
  split
  · rename_i a ha
    exact hostStep_withExt e s fun c hc => h11 c (ha.trans (congrArg some hc))
  · split
    · rfl
    · exact compressStep_withExt e s
    · exact decompressStep_withExt e s

end

/-! ## The parameter is not written -/

theorem startDecompress_hdrExtLen {s t : State} (h : startDecompress s = .next t) : t.hdrExtLen = s.hdrExtLen := by
  obtain hs | hs | ⟨-, hs⟩ := startDecompress_cases s
  all_goals
    cases hs.symm.trans h
    rfl

theorem startCompress_hdrExtLen {s t : State} (h : startCompress s = .next t) : t.hdrExtLen = s.hdrExtLen := by
  rw [startCompress_eq] at h
  split at h <;> cases h <;> rfl

theorem hostStep_hdrExtLen {a : HostAct} {s t : State} (h : hostStep a s = .next t) : t.hdrExtLen = s.hdrExtLen := by
  obtain ⟨r, hr⟩ | ⟨-, c, -, -, ⟨_, _, -, hc⟩ | ⟨-, hd⟩⟩ | ⟨-, hn⟩ := hostStep_cases a s
  · cases hr.symm.trans h
  · rw [startCompress_hdrExtLen (hc.symm.trans h), latch_hdrExtLen]
  · rw [startDecompress_hdrExtLen (hd.symm.trans h), latch_hdrExtLen]
  · cases hn.symm.trans h
    rfl

theorem compressStep_hdrExtLen {s t : State} (h : compressStep s = .next t) : t.hdrExtLen = s.hdrExtLen := by
  obtain ⟨-, u, hu, hf, -⟩ | ⟨-, u, hf, hu⟩ := compressStep_cases s
  · cases hu.symm.trans h
    rw [hf]
  · cases hu.symm.trans h
    rw [hf]
    rfl

theorem decompressStep_hdrExtLen {s t : State} (ho : s.op = .decompress) (h : decompressStep s = .next t) :
    t.hdrExtLen = s.hdrExtLen := by
  obtain ⟨u, hu, hf, -⟩ | hu | ⟨hu, -⟩ := decompressStep_cases ho
  · cases hu.symm.trans h
    rw [hf]
  · cases hu.symm.trans h
    rfl
  · cases hu.symm.trans h
    rfl

/-- No step writes `HDR_EXT_LEN`. -/
theorem step_hdrExtLen {s t : State} (h : step s = .next t) : t.hdrExtLen = s.hdrExtLen := by
  rw [step] at h
  split at h
  · exact hostStep_hdrExtLen h
  · split at h
    · cases h
      rfl
    · exact compressStep_hdrExtLen h
    · exact decompressStep_hdrExtLen ‹_› h

/-! ## The obligation -/

/-- Settles O25: no step writes `HDR_EXT_LEN` (`step_hdrExtLen`), and each commutes with setting it but for the start
on first byte 0x11 (`step_withExt`). -/
theorem extensionLengthIsAParameter : Obligations.ExtensionLengthIsAParameter := by
  intro s t h
  refine ⟨step_hdrExtLen h, fun h11 e => ?_⟩
  exact (step_withExt e h11).trans (congrArg (mapNext (withExt e)) h)

end Sys2Proof.Machine

/-! SUPPORT. What a token does when it completes, as a state (43 R166 to R170): `exec` answers that state exactly when
the token's checks pass, and a failure otherwise. -/

namespace Sys2Proof.Machine

/-! ## A token as one update -/

/-- The checks of a token whose control bytes have been fetched (43 R173 to R176). -/
def TokenFits (i : Instr) (s : State) : Prop :=
  match i with
  | .shortMatch lit mlen off => MatchFits lit mlen off s
  | .mediumMatch lit mlen off => MatchFits lit mlen off s
  | .longMatch lit mlen off => MatchFits lit mlen off s
  | .rawRun len => LiteralsFit len s
  | .terminal lit => s.wp < s.size → LiteralsFit lit { s with ip := s.ip + 1 }

/-- The state after a token whose checks pass (43 R166 to R170, R180). -/
def executed (i : Instr) (s : State) : State :=
  match i with
  | .shortMatch lit mlen off => matchCopied lit mlen off s
  | .mediumMatch lit mlen off => matchCopied lit mlen off s
  | .longMatch lit mlen off => matchCopied lit mlen off s
  | .rawRun len => literalsCopied len { s with lit := len }
  | .terminal lit =>
    if s.wp < s.size then markDone (literalsCopied lit { s with ip := s.ip + 1, lit := lit }) else markDone s

/-- A token whose checks pass completes (43 R166 to R170). -/
theorem exec_ok {i : Instr} {s : State} (h : TokenFits i s) : exec i s = .next (executed i s) := by
  cases i with
  | shortMatch => exact congrArg (settle s) (copyMatch_ok h)
  | mediumMatch => exact congrArg (settle s) (copyMatch_ok h)
  | longMatch => exact congrArg (settle s) (copyMatch_ok h)
  | rawRun len => exact congrArg (settle s) (litCopy_ok (s := { s with lit := len }) h)
  | terminal lit =>
    rw [exec, execTerminal, executed]
    split
    · rw [readTerminal_ok (s := exitLoop s) ‹_› (h ‹_›)]
      rfl
    · rw [readTerminal_unread (s := exitLoop s) (Nat.le_of_not_lt ‹_›)]
      rfl

/-- A token with a failing check raises Corrupt (43 R175, R176). -/
theorem exec_error {i : Instr} {s : State} (h : ¬TokenFits i s) : exec i s = .next (raise .corrupt s) := by
  cases i with
  | shortMatch => exact congrArg (settle s) (copyMatch_error h)
  | mediumMatch => exact congrArg (settle s) (copyMatch_error h)
  | longMatch => exact congrArg (settle s) (copyMatch_error h)
  | rawRun len => exact congrArg (settle s) (litCopy_error (s := { s with lit := len }) h)
  | terminal lit =>
    obtain ⟨hw, hf⟩ := Classical.not_imp.1 h
    rw [exec, execTerminal, readTerminal_error (s := exitLoop s) hw hf]
    rfl

/-- A completed token writes the token's registers and DST only. -/
theorem executed_frame (i : Instr) (s : State) : TokenFrame s (executed i s) := by
  cases i with
  | terminal lit =>
    rw [executed]
    split <;> rfl
  | _ => rfl

theorem executed_op (i : Instr) (s : State) : (executed i s).op = s.op := by
  rw [executed_frame i s]

/-- One pass of the decoder's loop raises Corrupt, or the decoded token passes its checks and completes, and its
temporaries become unspecified (43 R165, 10 R29). -/
theorem tokenStep_cases {s : State} (ho : s.op = .decompress) :
    tokenStep s = .next (raise .corrupt s) ∨
    ∃ i rest, decode (controlWindow s) = .ok (i, rest) ∧ TokenFits i (fetched i.kind s) ∧
      tokenStep s = .next (dropTokenTemps (executed i (fetched i.kind s))) := by
  cases hd : decode (controlWindow s) with
  | error e => exact .inl (by rw [tokenStep, hd])
  | ok d =>
    obtain ⟨i, rest⟩ := d
    have hs : tokenStep s = endToken (exec i (fetched i.kind s)) := by rw [tokenStep, hd]
    by_cases hf : TokenFits i (fetched i.kind s)
    · refine .inr ⟨i, rest, rfl, hf, ?_⟩
      have hop : (executed i (fetched i.kind s)).op = .decompress := by
        rw [executed_op, fetched_frame i.kind s, ho]
      rw [hs, exec_ok hf, endToken_running hop]
    · exact .inl (by rw [hs, exec_error hf, endToken_raise, raise_fetched])

/-! ## Control bytes -/

/-- Decoding takes the control bytes of the token's kind off the front (30 R79). -/
theorem decode_length {bs rest : List Byte} {i : Instr} (h : decode bs = .ok (i, rest)) :
    bs.length = i.kind.controlBytes + rest.length := by
  unfold decode at h
  split at h
  · cases h
  · split at h
    · cases h
      exact Nat.add_comm rest.length 1
    · cases h
      exact Nat.add_comm rest.length 1
    · split at h
      · cases h
        exact Nat.add_comm rest.length 2
      · cases h
    · split at h
      · cases h
        exact Nat.add_comm rest.length 3
      · cases h
    · split at h
      · cases h
        exact Nat.add_comm rest.length 4
      · cases h

theorem controlBytes_pos (k : Kind) : 0 < k.controlBytes := by
  cases k <;> decide

/-- The control bytes of a decoded token are in the stream (43 R161). -/
theorem controlBytes_in_stream {s : State} {rest : List Byte} {i : Instr}
    (h : decode (controlWindow s) = .ok (i, rest)) : s.ip + i.kind.controlBytes ≤ s.srcLen := by
  have hl := decode_length h
  have hp := controlBytes_pos i.kind
  rw [controlWindow, Memory.slice_length] at hl
  omega

/-- Fetching moves `ip` past the control bytes, but leaves it on a Terminal's (43 R165 to R170). -/
theorem fetched_ip (k : Kind) (s : State) :
    (fetched k s).ip = s.ip + if k = .terminal then 0 else k.controlBytes := by
  cases k <;> rfl

theorem fetched_wp (k : Kind) (s : State) : (fetched k s).wp = s.wp := by
  cases k <;> rfl

theorem fetched_dst (k : Kind) (s : State) : (fetched k s).dst = s.dst := by
  cases k <;> rfl

end Sys2Proof.Machine

/-! SUPPORT. What a position and the end of the stream do, as states (42 R131 to R146): `scanBody` and `finishStream`
answer them, and how long their appended bytes are. -/

namespace Sys2Proof.Machine

/-! ## The finder's step and the clamp -/

/-- The finder's step inserts the position, and writes nothing else but its own temporaries (41 R112, R113). -/
def InsertedFrame (s t : State) : Prop :=
  t = { s with
    head := Sparse.put s.head (keyAt s.src s.scan) s.scan
    prev := Sparse.put s.prev (s.scan % window s) (headRead s (keyAt s.src s.scan))
    key := t.key, cand := t.cand, hops := t.hops, curLen := t.curLen, bestLen := t.bestLen, bestOff := t.bestOff }

theorem finderStep_inserts (b : Bool) (s : State) : InsertedFrame s (finderStep b s) := by
  cases b with
  | false => rfl
  | true =>
    obtain ⟨_, _, _, _, _, h⟩ := search_frame (insertPosition (computeKey s))
    rw [finderStep, if_pos rfl, h]
    rfl

theorem finderStep_scan (b : Bool) (s : State) : (finderStep b s).scan = s.scan := by
  rw [finderStep_inserts b s]

theorem finderStep_flushed (b : Bool) (s : State) : (finderStep b s).flushed = s.flushed := by
  rw [finderStep_inserts b s]

/-- The clamp changes nothing: the finder's cap is at most the input's rest (42 R134). -/
theorem clamp_of_best {s : State} (h : BestInBounds s) : clamp s = s := by
  have hm : min s.bestLen (s.srcLen - s.scan) = s.bestLen := Nat.min_eq_left (h.1.trans (Nat.min_le_right ..))
  rw [clamp, hm]

/-! ## An accepted match -/

/-- The state after an accepted match at `scan` has been emitted (42 R137). -/
def matchEmitted (s : State) : State :=
  { appendAll (Ref.matchBytes s.src (window s) s.flushed s.scan s.bestLen s.bestOff) s with
    flushed := s.scan + s.bestLen
    lit := (s.scan - s.flushed) % 4 }

theorem select_literals {W lit len off : Nat} {i : Instr} (h : select W lit len off = some i) : i.literals = lit := by
  unfold select at h
  split at h
  · cases h
    rfl
  · split at h
    · cases h
      rfl
    · split at h <;> cases h
      rfl

/-- A match in the finder's bounds is emitted with the gap before it (42 R137, R151). -/
theorem emitMatch_eq {s : State} (hf : s.flushed ≤ s.scan) (hl : s.bestLen ≤ 1028) (ho : s.bestOff < window s) :
    emitMatch s = .next (matchEmitted s) := by
  have hu := flush_eq hf
  rw [appendAll_eq] at hu
  have hsel : select (window (flush s.scan s)) (flush s.scan s).lit (flush s.scan s).bestLen (flush s.scan s).bestOff =
      select (window s) ((s.scan - s.flushed) % 4) s.bestLen s.bestOff := by
    rw [hu]
    rfl
  cases hs : select (window s) ((s.scan - s.flushed) % 4) s.bestLen s.bestOff with
  | none => exact absurd hs (select_of_best hl ho)
  | some i =>
    have hg : s.scan - (s.scan - s.flushed) % 4 + (s.scan - s.flushed) % 4 = s.scan := by omega
    simp only [emitMatch, hsel, hs, emit_eq, select_literals hs, matchEmitted, Ref.matchBytes, List.append_assoc]
    rw [appendAll_append (Ref.flushBytes _ _ _), appendAll_eq (Ref.flushBytes _ _ _), hu]
    simp only [appendAll_eq, hg]

/-! ## A position -/

/-- The state in which the evaluation of the position at `scan` ends (42 R131 to R136). -/
def scanned (s : State) : State :=
  if s.scan + 1 < s.srcLen then
    if s.flushed ≤ s.scan then
      if accept (finderStep true s).bestLen (finderStep true s).bestOff then matchEmitted (finderStep true s)
      else finderStep true s
    else finderStep false s
  else s

/-- An accepted match of a search is emitted (42 R136, R137). -/
theorem emitMatch_finderStep {s : State} (hf : s.flushed ≤ s.scan)
    (ha : accept (finderStep true s).bestLen (finderStep true s).bestOff = true) :
    emitMatch (finderStep true s) = .next (matchEmitted (finderStep true s)) := by
  obtain ⟨hcap, hoff⟩ := finderStep_best s
  refine emitMatch_eq ?_ (hcap.trans (Nat.min_le_left ..)) (hoff (accept_pos ha)).2.2
  rw [finderStep_flushed, finderStep_scan]
  exact hf

theorem scanBody_eq (s : State) : scanBody s = .next (scanned s) := by
  rw [scanBody, scanned]
  split
  · by_cases hf : s.flushed ≤ s.scan
    · rw [decide_eq_true hf, if_pos hf, if_pos (by rw [finderStep_flushed, finderStep_scan]; exact hf),
        clamp_of_best (finderStep_best s)]
      dsimp only
      split
      · exact emitMatch_finderStep hf ‹_›
      · rfl
    · rw [decide_eq_false hf, if_neg hf, if_neg (by rw [finderStep_flushed, finderStep_scan]; exact hf)]
  · rfl

theorem scanned_frame (s : State) : BodyFrame s (scanned s) := by
  obtain ⟨t, ht, hf⟩ := scanBody_next s
  cases (scanBody_eq s).symm.trans ht
  exact hf

/-! ## The end of the stream -/

/-- The end of the stream: the last gap and the Terminal appended (42 R145, R146). -/
theorem finishStream_eq {s : State} (hf : s.flushed ≤ s.srcLen) :
    finishStream s =
      { appendAll (Ref.tail s.src s.srcLen s.flushed) s with
        flushed := s.srcLen, lit := (s.srcLen - s.flushed) % 4 } := by
  have hg : s.srcLen - (s.srcLen - s.flushed) % 4 + (s.srcLen - s.flushed) % 4 = s.srcLen := by omega
  rw [finishStream, flush_eq hf]
  simp only [emit_eq, Instr.literals, Ref.tail, List.append_assoc]
  rw [appendAll_append (Ref.flushBytes _ _ _)]
  simp only [appendAll_eq, hg]

/-- One step of COMPRESS is one position, or the end of the stream (42 R131, R145 to R147). -/
theorem compressStep_eq (s : State) :
    compressStep s =
      .next (if s.scan < s.srcLen then endPosition (scanned s) else complete (dropFinderTemps (finishStream s))) := by
  rw [compressStep, scanBody_eq, apply_ite Host.Outcome.next]

/-! ## How many bytes a position appends -/

/-- The RawRuns of a gap carry its bytes but for the remainder, and one control byte for every 112 of them begun
(42 R138). -/
theorem flushBytes_length (src : Memory) {a b g : Nat} (hg : g = 4 * ((b - a) / 4)) :
    (Ref.flushBytes src a b).length = g + (g + 111) / 112 := by
  induction hn : b - a using Nat.strongRecOn generalizing a g with
  | ind n ih =>
    subst hn
    by_cases h : 4 ≤ b - a
    · have hr := rawRunLength_range h
      rw [Ref.flushBytes_step h, List.length_append, List.length_append, Memory.slice_length,
        ih (b - (a + rawRunLength (b - a))) (by omega) rfl rfl]
      simp only [encode, List.length_singleton, rawRunLength, Config.rawMax] at hr ⊢
      omega
    · rw [Ref.flushBytes_small (Nat.lt_of_not_le h), List.length_nil]
      omega

theorem accept_iff (len off : Nat) :
    accept len off = true ↔ (len = 3 ∧ off ≤ 1024) ∨ (len = 4 ∧ off ≤ 16384) ∨ 5 ≤ len := by
  simp only [accept, Bool.and_eq_true, beq_iff_eq, decide_eq_true_eq]
  split_ifs <;> simp only [false_iff, true_iff] <;> omega

/-- An accepted match is longer than the control bytes of its token (42 R135, R140). -/
theorem controlBytes_lt_of_accept {W lit len off : Nat} {i : Instr} (ha : accept len off = true)
    (h : select W lit len off = some i) : i.kind.controlBytes < len := by
  have ha := (accept_iff len off).1 ha
  unfold select at h
  split at h
  · cases h
    simp only [Instr.kind, Kind.controlBytes]
    omega
  · split at h
    · cases h
      simp only [Instr.kind, Kind.controlBytes]
      omega
    · split at h <;> cases h
      simp only [Instr.kind, Kind.controlBytes]
      omega

theorem encode_length (i : Instr) : (encode i).length = i.kind.controlBytes := by
  cases i <;> rfl

/-- The output grows with an accepted match by no more than the bound of 42 R149 a: one byte for every 112 of the input
besides its bytes. -/
theorem matchBytes_length_le (src : Memory) {W F p len off : Nat} (hF : F ≤ p) (ha : accept len off = true)
    (hl : len ≤ 1028) (ho : off < W) :
    F + F / 112 + (Ref.matchBytes src W F p len off).length ≤ (p + len) + (p + len) / 112 := by
  cases hs : select W ((p - F) % 4) len off with
  | none => exact absurd hs (select_of_best hl ho)
  | some i =>
    have hc := controlBytes_lt_of_accept ha hs
    simp only [Ref.matchBytes, hs, List.length_append, flushBytes_length src rfl, encode_length, Memory.slice_length]
    omega

end Sys2Proof.Machine

/-! SUPPORT. The machine invariant (10 R23 to R32, 42 R149, R152, 43 R163): what each part of a step keeps, and O28, O29
and O44. -/

namespace Sys2Proof.Machine

/-! ## Canonical spaces -/

/-- A new DST in canonical form beside unchanged spaces. -/
theorem SpacesOk.of_dst {s t : State} (h : SpacesOk s) (hs : t.src = s.src) (hh : t.head = s.head)
    (hp : t.prev = s.prev) (hd : Memory.wf t.dst) : SpacesOk t where
  src := hs ▸ h.src
  dst := hd
  head := hh ▸ h.head
  prev := hp ▸ h.prev
  keys := hh ▸ h.keys

theorem keyAt_lt (src : Memory) (p : Nat) : keyAt src p < Config.keyCount := by
  have h0 := (Memory.read src p).isLt
  have h1 := (Memory.read src (p + 1)).isLt
  simp only [keyAt, Config.keyCount]
  omega

theorem finderStep_spacesOk (b : Bool) {s : State} (h : SpacesOk s) : SpacesOk (finderStep b s) := by
  rw [finderStep_inserts b s]
  refine ⟨h.src, h.dst, Sparse.rising_put _ _ h.head, Sparse.rising_put _ _ h.prev, fun e he => ?_⟩
  obtain rfl | he := Sparse.mem_put he
  · exact keyAt_lt _ _
  · exact h.keys e he

theorem matchEmitted_spacesOk {s : State} (h : SpacesOk s) : SpacesOk (matchEmitted s) := by
  rw [matchEmitted, appendAll_eq]
  exact h.of_dst rfl rfl rfl (Memory.wf_writeBytes _ _ h.dst)

theorem scanned_spacesOk {s : State} (h : SpacesOk s) : SpacesOk (scanned s) := by
  rw [scanned]
  split
  · split
    · split
      · exact matchEmitted_spacesOk (finderStep_spacesOk true h)
      · exact finderStep_spacesOk true h
    · exact finderStep_spacesOk false h
  · exact h

theorem finishStream_spacesOk {s : State} (h : SpacesOk s) (hf : s.flushed ≤ s.srcLen) :
    SpacesOk (finishStream s) := by
  rw [finishStream_eq hf, appendAll_eq]
  exact h.of_dst rfl rfl rfl (Memory.wf_writeBytes _ _ h.dst)

theorem executed_wf (i : Instr) {s : State} (h : Memory.wf s.dst) : Memory.wf (executed i s).dst := by
  have hm (lit mlen off : Nat) : Memory.wf (matchCopied lit mlen off s).dst :=
    backFill_wf (Memory.wf_writeBytes _ _ h)
  cases i with
  | shortMatch => exact hm ..
  | mediumMatch => exact hm ..
  | longMatch => exact hm ..
  | rawRun => exact Memory.wf_writeBytes _ _ h
  | terminal =>
    rw [executed]
    split
    · exact Memory.wf_writeBytes _ _ h
    · exact h

/-! ## The decoder's bounds -/

/-- The decoder's bounds without its state: they hold inside a token as well (10 R26, R27, 43 R163). -/
structure CursorsOk (s : State) : Prop where
  wp : s.wp ≤ s.size
  size : s.size ≤ Config.sizeMax
  hlen : s.hlen = Config.hdrLen ∨ s.hlen = extLength s.hdrExtLen
  start : s.hlen ≤ s.ip
  ip : s.ip ≤ s.srcLen
  written : ∀ c ∈ s.dst, c.1 < s.wp

theorem decoderOk_iff (s : State) : DecoderOk s ↔ CursorsOk s ∧ s.dstate ≠ .terminalRead :=
  ⟨fun h => ⟨⟨h.wp, h.size, h.hlen, h.start, h.ip, h.written⟩, h.dstate⟩,
    fun ⟨h, hd⟩ => ⟨h.wp, h.size, h.hlen, h.start, h.ip, h.written, hd⟩⟩

/-- Inside a token the bounds hold wherever `ip` moves on within the stream and nothing is written. -/
theorem CursorsOk.of_ip {s t : State} (h : CursorsOk s) (hf : TokenFrame s t) (hw : t.wp = s.wp) (hd : t.dst = s.dst)
    (hs : s.ip ≤ t.ip) (hi : t.ip ≤ s.srcLen) : CursorsOk t := by
  rw [hf]
  exact ⟨hw ▸ h.wp, h.size, h.hlen, h.start.trans hs, hi, hw ▸ hd ▸ h.written⟩

theorem literalsCopied_cursorsOk {k : Nat} {s : State} (h : CursorsOk s) (hf : LiteralsFit k s) :
    CursorsOk (literalsCopied k s) where
  wp := hf.elim (fun hk => by subst hk; exact h.wp) And.right
  size := h.size
  hlen := h.hlen
  start := h.start.trans (Nat.le_add_right ..)
  ip := hf.elim (fun hk => by subst hk; exact h.ip) And.left
  written c hc := by
    obtain ⟨-, hc⟩ | hc := Memory.mem_writeBytes hc
    · rwa [Memory.slice_length] at hc
    · exact Nat.lt_add_right k (h.written c hc)

theorem backCopied_cursorsOk {len off : Nat} {s : State} (h : CursorsOk s) (hf : BackFits len off s) :
    CursorsOk (backCopied len off s) where
  wp := hf.2.elim (fun hk => by subst hk; exact h.wp) id
  size := h.size
  hlen := h.hlen
  start := h.start
  ip := h.ip
  written c hc := by
    obtain ⟨-, hc⟩ | hc := mem_backFill hc
    · exact hc
    · exact Nat.lt_add_right len (h.written c hc)

/-- Every token whose checks pass keeps the decoder's bounds; a Terminal's control byte is still in the stream
(43 R163, R170). -/
theorem executed_cursorsOk {i : Instr} {s : State} (h : CursorsOk s) (hf : TokenFits i s)
    (hip : i.kind = .terminal → s.ip < s.srcLen) : CursorsOk (executed i s) := by
  have hm {lit mlen off : Nat} (hf : MatchFits lit mlen off s) : CursorsOk (matchCopied lit mlen off s) := by
    have hs : CursorsOk { s with lit := lit, mlen := mlen, off := off } :=
      h.of_ip rfl rfl rfl (Nat.le_refl _) h.ip
    exact backCopied_cursorsOk (literalsCopied_cursorsOk hs hf.1) hf.2
  cases i with
  | shortMatch => exact hm hf
  | mediumMatch => exact hm hf
  | longMatch => exact hm hf
  | rawRun len =>
    have hs : CursorsOk { s with lit := len } := h.of_ip rfl rfl rfl (Nat.le_refl _) h.ip
    exact literalsCopied_cursorsOk hs hf
  | terminal lit =>
    rw [executed]
    split
    · have hs : CursorsOk { s with ip := s.ip + 1, lit := lit } :=
        h.of_ip rfl rfl rfl (Nat.le_add_right ..) (hip rfl)
      have hl := literalsCopied_cursorsOk hs (hf ‹_›)
      exact hl.of_ip rfl rfl rfl (Nat.le_refl _) hl.ip
    · exact h.of_ip rfl rfl rfl (Nat.le_refl _) h.ip

theorem fetched_cursorsOk {k : Kind} {s : State} (h : CursorsOk s) (hk : s.ip + k.controlBytes ≤ s.srcLen) :
    CursorsOk (fetched k s) := by
  have hi := fetched_ip k s
  refine h.of_ip (fetched_frame k s) (fetched_wp k s) (fetched_dst k s) (by omega) ?_
  rw [hi]
  split <;> omega

/-- The decoder's state after a token: done after a Terminal, running after any other (43 R165, R170). -/
theorem executed_fetched_dstate (i : Instr) (s : State) :
    (executed i (fetched i.kind s)).dstate = if i.kind = .terminal then .done else s.dstate := by
  cases i with
  | terminal lit =>
    rw [executed]
    split <;> rfl
  | _ => rfl

theorem token_decoderOk {s : State} {i : Instr} {rest : List Byte} (h : CursorsOk s) (hr : s.dstate = .running)
    (hd : decode (controlWindow s) = .ok (i, rest)) (hf : TokenFits i (fetched i.kind s)) :
    DecoderOk (dropTokenTemps (executed i (fetched i.kind s))) := by
  have hk := controlBytes_in_stream hd
  have hc : CursorsOk (executed i (fetched i.kind s)) := by
    refine executed_cursorsOk (fetched_cursorsOk h hk) hf fun ht => ?_
    rw [ht] at hk ⊢
    exact hk
  refine (decoderOk_iff _).2 ⟨⟨hc.wp, hc.size, hc.hlen, hc.start, hc.ip, hc.written⟩, ?_⟩
  rw [dropTokenTemps_dstate, executed_fetched_dstate, hr]
  split <;> simp

/-! ## The encoder's bounds -/

theorem finderStep_encoderOk (b : Bool) {s : State} (h : EncoderOk s) : EncoderOk (finderStep b s) := by
  rw [finderStep_inserts b s]
  refine ⟨h.len, h.bits, h.scan, h.flushed, h.ahead, h.header, h.bound, h.appended, fun e he => ?_⟩
  obtain rfl | he := Sparse.mem_put he
  · exact Nat.mod_lt _ (Nat.two_pow_pos _)
  · exact h.links e he

/-- An accepted match in the finder's bounds keeps the encoder's: `flushed` stays within the input and at most 1028
past `scan`, and the output within its bound (42 R149 a). -/
theorem matchEmitted_encoderOk {s : State} (h : EncoderOk s) (hb : BestInBounds s) (hf : s.flushed ≤ s.scan)
    (ha : accept s.bestLen s.bestOff = true) : EncoderOk (matchEmitted s) := by
  have hscan := h.scan
  have hbound := h.bound
  have hheader := h.header
  obtain ⟨hcap, hoff⟩ := hb
  have hmax : s.bestLen ≤ 1028 := hcap.trans (Nat.min_le_left ..)
  have hrest : s.bestLen ≤ s.srcLen - s.scan := hcap.trans (Nat.min_le_right ..)
  have hlen := matchBytes_length_le s.src hf ha hmax (hoff (accept_pos ha)).2.2
  rw [matchEmitted, appendAll_eq]
  simp only [Config.hdrLen, Config.rawMax] at hbound hheader
  refine ⟨h.len, h.bits, hscan, ?_, ?_, ?_, ?_, fun c hc => ?_, h.links⟩
  · simp only
    omega
  · simp only [Config.maxMatch]
    omega
  · simp only [Config.hdrLen]
    omega
  · simp only [Config.hdrLen, Config.rawMax]
    omega
  · obtain ⟨-, hc⟩ | hc := Memory.mem_writeBytes hc
    · exact hc
    · exact Nat.lt_add_right _ (h.appended c hc)

theorem scanned_encoderOk {s : State} (h : EncoderOk s) : EncoderOk (scanned s) := by
  rw [scanned]
  split
  · split
    · split
      · refine matchEmitted_encoderOk (finderStep_encoderOk true h) (finderStep_best s) ?_ ‹_›
        rwa [finderStep_flushed, finderStep_scan]
      · exact finderStep_encoderOk true h
    · exact finderStep_encoderOk false h
  · exact h

theorem endPosition_encoderOk {s : State} (h : EncoderOk s) (hs : s.scan < s.srcLen) :
    EncoderOk (endPosition s) where
  len := h.len
  bits := h.bits
  scan := hs
  flushed := h.flushed
  ahead := by
    have ha := h.ahead
    rw [endPosition_flushed, endPosition_scan]
    omega
  header := h.header
  bound := h.bound
  appended := h.appended
  links := h.links

/-! ## The ends of an operation -/

/-- A failure leaves a state of the invariant (60 R197). -/
theorem raise_inv (e : Failure) {s : State} (h : Memory.wf s.src) : Inv (raise e s) where
  spaces := raise_spacesOk e h
  flags := ⟨by simp, by simp⟩
  input h := absurd rfl h
  decoder h := nomatch h
  encoder h := nomatch h

/-- A success leaves a state of the invariant (60 R198). -/
theorem complete_inv {s : State} (h : SpacesOk s) : Inv (complete s) where
  spaces := ⟨h.src, h.dst, h.head, h.prev, h.keys⟩
  flags := ⟨by simp, by simp⟩
  input h := absurd rfl h
  decoder h := nomatch h
  encoder h := nomatch h

/-! ## One step of a running operation -/

theorem tokenFrame_inv {s t : State} (h : Inv s) (ho : s.op = .decompress) (hf : TokenFrame s t)
    (hw : Memory.wf t.dst) (hd : DecoderOk t) : Inv t where
  spaces := h.spaces.of_dst (by rw [hf]) (by rw [hf]) (by rw [hf]) hw
  flags := by
    rw [hf]
    exact ⟨h.flags.busy, h.flags.err⟩
  input _ := by
    have hi := h.input (by rw [ho]; decide)
    rw [hf]
    exact ⟨hi.len, hi.cells⟩
  decoder _ := hd
  encoder hc := by
    rw [show t.op = s.op by rw [hf], ho] at hc
    cases hc

theorem decompressStep_inv {s t : State} (h : Inv s) (ho : s.op = .decompress) (hs : decompressStep s = .next t) :
    Inv t := by
  obtain ⟨hc, hnt⟩ := (decoderOk_iff s).1 (h.decoder ho)
  cases hd : s.dstate with
  | running =>
    rw [decompressStep, hd] at hs
    obtain hr | ⟨i, rest, hdec, hfit, hn⟩ := tokenStep_cases ho
    · cases hr.symm.trans hs
      exact raise_inv _ h.spaces.src
    · cases hn.symm.trans hs
      have hframe := (fetched_frame i.kind s).trans (executed_frame i _)
      refine tokenFrame_inv h ho (hframe.trans (dropTokenTemps_frame _)) ?_ (token_decoderOk hc hd hdec hfit)
      exact executed_wf i ((fetched_dst i.kind s).symm ▸ h.spaces.dst)
  | terminalRead => exact absurd hd hnt
  | done =>
    rw [decompressStep, hd] at hs
    dsimp only [finalCheck] at hs
    split at hs
    · cases hs
      exact complete_inv h.spaces
    · cases hs
      exact raise_inv _ h.spaces.src

theorem position_inv {s : State} (h : Inv s) (ho : s.op = .compress) (hs : s.scan < s.srcLen) :
    Inv (endPosition (scanned s)) := by
  have hf := scanned_frame s
  have hb := scanned_spacesOk h.spaces
  have hi := h.input (by rw [ho]; decide)
  refine ⟨⟨hb.src, hb.dst, hb.head, hb.prev, hb.keys⟩, ?_, fun _ => ?_, fun hd => ?_, fun _ => ?_⟩
  · rw [hf]
    exact ⟨h.flags.busy, h.flags.err⟩
  · rw [hf]
    exact ⟨hi.len, hi.cells⟩
  · rw [endPosition_op, hf] at hd
    cases ho.symm.trans hd
  · refine endPosition_encoderOk (scanned_encoderOk (h.encoder ho)) ?_
    rw [hf]
    exact hs

theorem compressStep_inv {s t : State} (h : Inv s) (ho : s.op = .compress) (hs : compressStep s = .next t) :
    Inv t := by
  rw [compressStep_eq] at hs
  split at hs
  · cases hs
    exact position_inv h ho ‹_›
  · cases hs
    have hb := finishStream_spacesOk h.spaces (h.encoder ho).flushed
    exact complete_inv ⟨hb.src, hb.dst, hb.head, hb.prev, hb.keys⟩

/-! ## The start steps -/

/-- What an accepted start command is (60 R212). -/
theorem startRefusal_none {c : StartCmd} (h : startRefusal c = none) :
    c.srcLen < Config.srcLenLimit ∧ c.disjoint = true ∧
      ∀ wb mh, c.job = .compress wb mh → windowBitsOk wb = true ∧ maxHopsOk mh = true := by
  rw [startRefusal] at h
  split at h
  · cases h
  · split at h
    · cases h
    · refine ⟨Nat.lt_of_not_le ‹_›, by simpa using ‹¬(!c.disjoint) = true›, fun wb mh hj => ?_⟩
      rw [hj] at h
      cases hw : windowBitsOk wb <;> cases hm : maxHopsOk mh <;> simp [hw, hm] at h ⊢

/-- The state at an operation's start, but for the registers its job sets (10 R39). -/
structure Latched (c : StartCmd) (s : State) : Prop where
  spaces : SpacesOk s
  status : s.status = .busy
  err : s.err = none
  srcLen : s.srcLen = c.srcLen
  src : s.src = inputMemory c
  dst : s.dst = []
  prev : s.prev = []

theorem latch_latched (c : StartCmd) (s : State) : Latched c (latch c s) := by
  have hin := (inputMemory_ok c).1
  have hhead := rising_headOfEntries (Config.freeHead s.draw)
  rw [latch]
  split
  · exact ⟨⟨hin, Memory.wf_nil, List.Pairwise.nil, List.Pairwise.nil, fun e he => nomatch he⟩, rfl, rfl, rfl, rfl,
      rfl, rfl⟩
  · exact ⟨⟨hin, Memory.wf_nil, hhead, List.Pairwise.nil, fun _ => mem_headOfEntries⟩, rfl, rfl, rfl, rfl, rfl, rfl⟩

theorem Latched.input {c : StartCmd} {s : State} (h : Latched c s) (hr : startRefusal c = none) : InputOk s where
  len := h.srcLen ▸ (startRefusal_none hr).1
  cells := by
    rw [h.srcLen, h.src]
    exact (inputMemory_ok c).2

theorem latch_op_compress {c : StartCmd} {wb mh : Option Int} (hj : c.job = .compress wb mh) (s : State) :
    (latch c s).op = .compress := by
  rw [latch, hj]

theorem latch_op_decompress {c : StartCmd} (hj : c.job = .decompress) (s : State) :
    (latch c s).op = .decompress := by
  rw [latch, hj]

/-- An accepted `WINDOW_BITS` is latched within its range (00 R6, 60 R212). -/
theorem latch_windowBits_le {c : StartCmd} {wb mh : Option Int} (hj : c.job = .compress wb mh)
    (hr : startRefusal c = none) (s : State) : (latch c s).windowBits ≤ Config.windowBitsMax := by
  obtain ⟨-, -, hp⟩ := startRefusal_none hr
  have hok := (hp wb mh hj).1
  have hl : (latch c s).windowBits = paramOr wb Config.windowBitsDefault := by rw [latch, hj]
  rw [hl, paramOr]
  cases wb with
  | none => decide
  | some b =>
    simp only [windowBitsOk, Bool.and_eq_true, decide_eq_true_eq] at hok
    simp only [Option.map_some, Option.getD_some]
    omega

/-- The encoder's bounds at the start: cursors at 0, the header's 5 bytes written (42 R130). -/
theorem compressStart_encoderOk {s : State} (hlen : s.srcLen ≤ Config.sizeMax)
    (hbits : s.windowBits ≤ Config.windowBitsMax) (hdst : s.dst = []) (hprev : s.prev = []) :
    EncoderOk { s with
      head := [], scan := 0, flushed := 0, dlen := 5, dst := Memory.writeBytes s.dst 0 (headerBytes s.srcLen) } where
  len := hlen
  bits := hbits
  scan := Nat.zero_le _
  flushed := Nat.zero_le _
  ahead := Nat.zero_le _
  header := Nat.le_refl _
  bound := Nat.le_add_right _ _
  appended c hc := by
    dsimp only at hc
    obtain ⟨-, hc⟩ | hc := Memory.mem_writeBytes hc
    · exact hc
    · rw [hdst] at hc
      cases hc
  links e he := by
    dsimp only at he
    rw [hprev] at he
    cases he

theorem startCompress_inv {c : StartCmd} {s t : State} (hL : Latched c s) (hr : startRefusal c = none)
    (ho : s.op = .compress) (hw : s.windowBits ≤ Config.windowBitsMax) (hs : startCompress s = .next t) : Inv t := by
  obtain ⟨hlen, hcells⟩ := hL.input hr
  rw [startCompress_eq] at hs
  split at hs
  · cases hs
    exact raise_inv _ hL.spaces.src
  · cases hs
    exact {
      spaces := ⟨hL.spaces.src, Memory.wf_writeBytes _ _ hL.spaces.dst, List.Pairwise.nil, hL.spaces.prev,
        fun e he => nomatch he⟩
      flags := ⟨by simp [hL.status, ho], by simp [hL.err, hL.status]⟩
      input := fun _ => ⟨hlen, hcells⟩
      decoder := fun hd => nomatch ho.symm.trans hd
      encoder := fun _ => compressStart_encoderOk (Nat.le_of_not_lt ‹_›) hw hL.dst hL.prev }

theorem headerSize_le (s : State) : headerSize s ≤ Config.sizeMax := by
  have h2 := (Memory.read s.src 2).isLt
  have h3 := (Memory.read s.src 3).isLt
  have h4 := (Memory.read s.src 4).isLt
  simp only [headerSize, Config.sizeMax]
  omega

theorem headerLength_eq_or (ext : Nat) (s : State) : headerLength ext s = Config.hdrLen ∨ headerLength ext s = ext := by
  rw [headerLength]
  split
  · exact .inl rfl
  · exact .inr rfl

/-- The decoder's bounds after the header read (40 R103). -/
theorem headerRead_decoderOk {s : State} (hlen : headerLength (extLength s.hdrExtLen) s ≤ s.srcLen)
    (hdst : s.dst = []) :
    DecoderOk { s with
      hlen := headerLength (extLength s.hdrExtLen) s, size := headerSize s,
      ip := headerLength (extLength s.hdrExtLen) s, wp := 0, dstate := .running } where
  wp := Nat.zero_le _
  size := headerSize_le s
  hlen := headerLength_eq_or _ s
  start := Nat.le_refl _
  ip := hlen
  written c hc := by
    dsimp only at hc
    rw [hdst] at hc
    cases hc
  dstate := by simp

theorem startDecompress_inv {c : StartCmd} {s t : State} (hL : Latched c s) (hr : startRefusal c = none)
    (ho : s.op = .decompress) (hs : startDecompress s = .next t) : Inv t := by
  obtain ⟨hlen, hcells⟩ := hL.input hr
  obtain h | h | ⟨hhdr, h⟩ := startDecompress_cases s
  · cases h.symm.trans hs
    exact raise_inv _ hL.spaces.src
  · cases h.symm.trans hs
    exact raise_inv _ hL.spaces.src
  · cases h.symm.trans hs
    exact {
      spaces := ⟨hL.spaces.src, hL.spaces.dst, hL.spaces.head, hL.spaces.prev, hL.spaces.keys⟩
      flags := ⟨by simp [hL.status, ho], by simp [hL.err, hL.status]⟩
      input := fun _ => ⟨hlen, hcells⟩
      decoder := fun _ => headerRead_decoderOk hhdr hL.dst
      encoder := fun hc => nomatch ho.symm.trans hc }

/-- The invariant does not speak of the host's port. -/
theorem Inv.withPort {s : State} (h : Inv s) (p : Option HostAct) : Inv { s with port := p } where
  spaces := ⟨h.spaces.src, h.spaces.dst, h.spaces.head, h.spaces.prev, h.spaces.keys⟩
  flags := ⟨h.flags.busy, h.flags.err⟩
  input ho := ⟨(h.input ho).len, (h.input ho).cells⟩
  decoder ho :=
    have hd := h.decoder ho
    ⟨hd.wp, hd.size, hd.hlen, hd.start, hd.ip, hd.written, hd.dstate⟩
  encoder ho :=
    have he := h.encoder ho
    ⟨he.len, he.bits, he.scan, he.flushed, he.ahead, he.header, he.bound, he.appended, he.links⟩

theorem hostStep_inv {a : HostAct} {s t : State} (h : Inv s) (hs : hostStep a s = .next t) : Inv t := by
  obtain ⟨r, hr⟩ | ⟨-, c, -, hr, ⟨wb, mh, hj, hc⟩ | ⟨hj, hd⟩⟩ | ⟨-, hn⟩ := hostStep_cases a s
  · cases hr.symm.trans hs
  · exact startCompress_inv (latch_latched c s) hr (latch_op_compress hj s) (latch_windowBits_le hj hr s)
      (hc.symm.trans hs)
  · exact startDecompress_inv (latch_latched c s) hr (latch_op_decompress hj s) (hd.symm.trans hs)
  · cases hn.symm.trans hs
    exact h.withPort none

/-! ## The obligations -/

/-- Settles O29: every kind of step keeps the invariant (`hostStep_inv`, `compressStep_inv`, `decompressStep_inv`). -/
theorem invariantKept : Obligations.InvariantKept := by
  intro s t h hs
  rw [step] at hs
  split at hs
  · exact hostStep_inv h hs
  · split at hs
    · cases hs
      exact h
    · exact compressStep_inv h ‹_› hs
    · exact decompressStep_inv h ‹_› hs

/-- Settles O28: nothing runs at power-on and nothing is listed (10 R39). -/
theorem invariantAtReset : Obligations.InvariantAtReset where
  spaces := reset_spacesOk
  flags := ⟨by decide, by decide⟩
  input h := absurd rfl h
  decoder h := nomatch h
  encoder h := nomatch h

/-- Settles O44: after the start no position has been inserted, HEAD is empty and no token has been appended. -/
theorem loopInvariantsAtStart : Obligations.LoopInvariantsAtStart := by
  intro s hs
  have ht := (startCompress_eq s).trans (if_neg (Nat.not_lt.2 hs))
  refine ⟨_, ht, ⟨fun k => ?_, fun q hq => ?_⟩, fun size after _ => ?_⟩
  · rw [inserted, Nat.zero_min]
    rfl
  · rw [inserted, Nat.zero_min] at hq
    exact absurd hq (Nat.not_lt_zero q)
  · rfl

end Sys2Proof.Machine

/-! SUPPORT. What a step of an operation does not write and does not read (10 R20, R29, R39, R41): O33, O34, O24 and
O40. -/

namespace Sys2Proof.Machine

/-! ## What a step without a host act writes -/

/-- The ends of a step without a host act: an idle block stays; a position, or the end of the stream; a token, Corrupt,
or the passed final check (70 R240). -/
theorem step_without_act {s t : State} (hp : s.port = none) (h : step s = .next t) :
    (s.op = .idle ∧ t = s) ∨
    (s.op = .compress ∧ (PositionFrame s t ∨ ∃ u, EmitFrame s u ∧ t = complete (dropFinderTemps u))) ∨
    (s.op = .decompress ∧ (TokenFrame s t ∨ t = raise .corrupt s ∨ t = complete s)) := by
  rw [step, hp] at h
  cases ho : s.op with
  | idle =>
    rw [ho] at h
    cases h
    exact .inl ⟨rfl, rfl⟩
  | compress =>
    rw [ho] at h
    refine .inr (.inl ⟨rfl, ?_⟩)
    obtain ⟨-, u, hu, hf, -⟩ | ⟨-, u, hf, hu⟩ := compressStep_cases s
    · cases hu.symm.trans h
      exact .inl hf
    · cases hu.symm.trans h
      exact .inr ⟨u, hf, rfl⟩
  | decompress =>
    rw [ho] at h
    refine .inr (.inr ⟨rfl, ?_⟩)
    obtain ⟨u, hu, hf, -⟩ | hu | ⟨hu, -⟩ := decompressStep_cases ho
    · cases hu.symm.trans h
      exact .inl hf
    · cases hu.symm.trans h
      exact .inr (.inl rfl)
    · cases hu.symm.trans h
      exact .inr (.inr rfl)

/-- Settles O33: no frame of a step covers SRC, `srcLen` or a parameter; a failure keeps SRC. -/
theorem inputsNeverWritten : Obligations.InputsNeverWritten := by
  intro s t hp h
  obtain ⟨-, rfl⟩ | ⟨-, hf | ⟨u, hf, rfl⟩⟩ | ⟨-, hf | rfl | rfl⟩ := step_without_act hp h
  · exact ⟨rfl, fun _ => ⟨rfl, rfl, rfl⟩⟩
  · rw [hf]
    exact ⟨rfl, fun _ => ⟨rfl, rfl, rfl⟩⟩
  · rw [hf]
    exact ⟨rfl, fun _ => ⟨rfl, rfl, rfl⟩⟩
  · rw [hf]
    exact ⟨rfl, fun _ => ⟨rfl, rfl, rfl⟩⟩
  · exact ⟨rfl, fun hn => absurd rfl hn⟩
  · exact ⟨rfl, fun _ => ⟨rfl, rfl, rfl⟩⟩

/-- Settles O34: a token's frame has no register of the encoder or finder, a position's none of the decoder, and the
successes write only `op`, `status` and `err` besides. -/
theorem operationsKeepToTheirRegisters : Obligations.OperationsKeepToTheirRegisters := by
  intro s t hp h hn
  obtain ⟨ho, -⟩ | ⟨ho, hs⟩ | ⟨ho, hs⟩ := step_without_act hp h
  · simp [ho]
  · refine ⟨by simp [ho], fun _ => ?_⟩
    obtain hf | ⟨u, hf, rfl⟩ := hs
    · rw [hf]
      simp
    · rw [hf]
      simp
  · refine ⟨fun _ => ?_, by simp [ho]⟩
    obtain hf | rfl | rfl := hs
    · rw [hf]
      simp
    · exact absurd rfl hn
    · simp

/-! ## The start is fresh -/

/-- The state at an operation's start depends on the command, on `HDR_EXT_LEN` and on the drawing only (10 R39). -/
theorem latch_fresh (c : StartCmd) {s t : State} (he : s.hdrExtLen = t.hdrExtLen) (hd : s.draw = t.draw) :
    latch c s = latch c t := by
  simp only [latch, discardWork, he, hd]

/-- Settles O24: both idle blocks latch one state (`latch_fresh`), and the start step is a function of it. -/
theorem startIsFresh : Obligations.StartIsFresh := by
  intro s t c hs ht he hd
  have hl : latch c (started s c) = latch c (started t c) := latch_fresh c he hd
  have hstep {u : State} (hu : u.status ≠ .busy) : step (started u c) = startOperation c (started u c) :=
    if_neg fun hb => hu (by simpa [State.busy, started] using hb)
  rw [hstep hs, hstep ht, startOperation, startOperation, hl]

/-! ## A token reads no temporary -/

/-- `t` is `s` but for the token temporaries (10 R29). -/
def TokenTempsApart (s t : State) : Prop :=
  t = { s with b0 := t.b0, b1 := t.b1, b2 := t.b2, b3 := t.b3, lit := t.lit, mlen := t.mlen, off := t.off }

theorem TokenTempsApart.fetched_apart {s t : State} (h : TokenTempsApart s t) (k : Kind) :
    TokenTempsApart (fetched k s) (fetched k t) := by
  rw [TokenTempsApart] at h
  rw [h]
  cases k <;> rfl

theorem TokenTempsApart.tokenFits_iff {s t : State} (h : TokenTempsApart s t) (i : Instr) :
    TokenFits i t ↔ TokenFits i s := by
  rw [h]
  cases i <;> exact Iff.rfl

theorem TokenTempsApart.raise_congr {s t : State} (h : TokenTempsApart s t) (e : Failure) : raise e t = raise e s := by
  rw [h]
  rfl

/-- A token that completes writes every temporary it uses, and the rest become unspecified after it (10 R29, 93 U6). -/
theorem TokenTempsApart.executed_congr {s t : State} (h : TokenTempsApart s t) (i : Instr) :
    dropTokenTemps (executed i t) = dropTokenTemps (executed i s) := by
  rw [h]
  cases i with
  | terminal lit =>
    rw [executed, executed, apply_ite dropTokenTemps, apply_ite dropTokenTemps]
    rfl
  | _ => rfl

theorem TokenTempsApart.endToken_exec_congr {s t : State} (h : TokenTempsApart s t) (ho : s.op = .decompress)
    (i : Instr) : endToken (exec i t) = endToken (exec i s) := by
  have hop : t.op = .decompress := by rw [h, ho]
  by_cases hf : TokenFits i s
  · rw [exec_ok hf, exec_ok ((h.tokenFits_iff i).2 hf), endToken_running (by rw [executed_op, hop]),
      endToken_running (by rw [executed_op, ho]), h.executed_congr i]
  · rw [exec_error hf, exec_error (mt (h.tokenFits_iff i).1 hf), h.raise_congr]

theorem TokenTempsApart.tokenStep_congr {s t : State} (h : TokenTempsApart s t) (ho : s.op = .decompress) :
    tokenStep t = tokenStep s := by
  have hw : controlWindow t = controlWindow s := by
    rw [h]
    rfl
  rw [tokenStep, tokenStep, hw]
  split
  · rw [h.raise_congr]
  · rename_i i _ _
    exact (h.fetched_apart i.kind).endToken_exec_congr (by rw [fetched_frame i.kind s, ho]) i

/-! ## A position reads no temporary -/

/-- `t` is `s` but for the encoder's and finder's temporaries (10 R39, 93 U6). -/
def FinderTempsApart (s t : State) : Prop :=
  t = { s with
    lit := t.lit, key := t.key, cand := t.cand, hops := t.hops, curLen := t.curLen, bestLen := t.bestLen,
    bestOff := t.bestOff }

/-- During a search: `lit` and `curLen` are not read, and `bestOff` only with a best match (41 R113, R117). -/
structure SearchApart (s t : State) : Prop where
  frame : t = { s with lit := t.lit, curLen := t.curLen, bestOff := t.bestOff }
  best : 0 < s.bestLen → t.bestOff = s.bestOff

theorem SearchApart.apart {s t : State} (h : SearchApart s t) : FinderTempsApart s t := by
  rw [h.frame]
  rfl

theorem SearchApart.updateBest_apart {s t : State} (h : SearchApart s t) (hc : t.curLen = s.curLen) (c : Nat) :
    SearchApart (updateBest c s) (updateBest c t) := by
  have hb : t.bestLen = s.bestLen := by rw [h.frame]
  rw [updateBest, updateBest, hc, hb]
  split
  · rw [h.frame]
    exact ⟨rfl, fun _ => rfl⟩
  · exact h

theorem SearchApart.examine_apart {s t : State} (h : SearchApart s t) (c : Nat) :
    SearchApart (examine c s) (examine c t) := by
  have hc : prefixLen t.src t.scan c (matchCap t) = prefixLen s.src s.scan c (matchCap s) := by
    rw [h.frame]
    rfl
  have hm : SearchApart { s with hops := s.hops + 1, curLen := prefixLen s.src s.scan c (matchCap s) }
      { t with hops := t.hops + 1, curLen := prefixLen t.src t.scan c (matchCap t) } := by
    refine ⟨?_, h.best⟩
    rw [h.frame]
  have hu := hm.updateBest_apart hc c
  rw [examine, examine]
  refine ⟨?_, hu.best⟩
  rw [hu.frame]
  rfl

theorem SearchApart.walk_apart {s t : State} (h : SearchApart s t) (fuel : Nat) :
    SearchApart (walk fuel s) (walk fuel t) := by
  induction fuel generalizing s t with
  | zero => exact h
  | succ fuel ih =>
    have hcand : t.cand = s.cand := by rw [h.frame]
    have hcond (c : Nat) : (inWindow t c && decide (t.hops < t.maxHops)) =
        (inWindow s c && decide (s.hops < s.maxHops)) := by
      rw [h.frame]
      rfl
    rw [walk, walk, hcand]
    split
    · exact h
    · rw [hcond]
      split
      · exact ih (h.examine_apart _)
      · exact h

theorem FinderTempsApart.search_apart {s t : State} (h : FinderTempsApart s t) :
    SearchApart (finderStep true s) (finderStep true t) := by
  have hm : t.maxHops = s.maxHops := by rw [h]
  have hstart : SearchApart { insertPosition (computeKey s) with bestLen := 0, hops := 0 }
      { insertPosition (computeKey t) with bestLen := 0, hops := 0 } := by
    refine ⟨?_, fun h0 => absurd h0 (Nat.lt_irrefl 0)⟩
    rw [h]
    rfl
  change SearchApart (walk s.maxHops _) (walk t.maxHops _)
  rw [hm]
  exact hstart.walk_apart s.maxHops

/-- The acceptance policy reads `bestOff` only with a best match (42 R135). -/
theorem SearchApart.accept_congr {s t : State} (h : SearchApart s t) :
    accept t.bestLen t.bestOff = accept s.bestLen s.bestOff := by
  have hl : t.bestLen = s.bestLen := by rw [h.frame]
  rw [hl]
  by_cases h0 : 0 < s.bestLen
  · rw [h.best h0]
  · have hz : s.bestLen = 0 := Nat.eq_zero_of_not_pos h0
    rw [hz]
    rfl

theorem SearchApart.matchEmitted_apart {s t : State} (h : SearchApart s t) (ha : accept s.bestLen s.bestOff = true) :
    FinderTempsApart (matchEmitted s) (matchEmitted t) := by
  have hb := h.best (accept_pos ha)
  rw [matchEmitted, matchEmitted, appendAll_eq, appendAll_eq, hb, h.frame]
  rfl

theorem FinderTempsApart.scanned_apart {s t : State} (h : FinderTempsApart s t) :
    FinderTempsApart (scanned s) (scanned t) := by
  have hl : t.srcLen = s.srcLen := by rw [h]
  have hs : t.scan = s.scan := by rw [h]
  have hf : t.flushed = s.flushed := by rw [h]
  rw [scanned, scanned, hl, hs, hf, h.search_apart.accept_congr]
  split
  · split
    · split
      · exact h.search_apart.matchEmitted_apart ‹_›
      · exact h.search_apart.apart
    · rw [h]
      rfl
  · exact h

theorem FinderTempsApart.endPosition_congr {s t : State} (h : FinderTempsApart s t) :
    endPosition t = endPosition s := by
  rw [h]
  rfl

theorem flush_past {upto : Nat} {s : State} (h : upto ≤ s.flushed) : flush upto s = { s with lit := 0 } := by
  rw [flush, Nat.sub_eq_zero_of_le h, flushLoop]
  simp only [Nat.sub_eq_zero_of_le h]

/-- The end of the stream takes its literals from the flush (42 R145, R146). -/
theorem FinderTempsApart.finishStream_congr {s t : State} (h : FinderTempsApart s t) :
    dropFinderTemps (finishStream t) = dropFinderTemps (finishStream s) := by
  have hl : t.srcLen = s.srcLen := by rw [h]
  have ht : t.flushed = s.flushed := by rw [h]
  by_cases hf : s.flushed ≤ s.srcLen
  · rw [finishStream_eq hf, finishStream_eq (by rwa [hl, ht]), appendAll_eq, appendAll_eq, h]
    rfl
  · have hp := Nat.le_of_not_le hf
    rw [finishStream, finishStream, flush_past hp, flush_past (by rwa [hl, ht]), emit_eq, emit_eq, appendAll_eq,
      appendAll_eq, h]
    rfl

theorem FinderTempsApart.compressStep_congr {s t : State} (h : FinderTempsApart s t) :
    compressStep t = compressStep s := by
  have hl : t.srcLen = s.srcLen := by rw [h]
  have hs : t.scan = s.scan := by rw [h]
  rw [compressStep_eq, compressStep_eq, hl, hs, h.scanned_apart.endPosition_congr, h.finishStream_congr]

/-- A fetching decoder's step is one pass of its loop (43 R165). -/
theorem step_fetching {s : State} (h : Fetching s) : step s = tokenStep s := by
  obtain ⟨hp, ho, hd⟩ := h
  simp only [step, decompressStep, hp, ho, hd]

theorem step_encoding {s : State} (h : Encoding s) : step s = compressStep s := by
  obtain ⟨hp, ho⟩ := h
  simp only [step, hp, ho]

/-- Settles O40: a token's step and a position's are the same from states that differ in temporaries only. -/
theorem temporariesNotRead : Obligations.TemporariesNotRead := by
  refine ⟨fun s c0 c1 c2 c3 l m o hs => ?_, fun s c l k h u b o hs => ?_⟩
  · have ha : TokenTempsApart s { s with b0 := c0, b1 := c1, b2 := c2, b3 := c3, lit := l, mlen := m, off := o } := rfl
    rw [step_fetching hs, step_fetching (by exact hs)]
    exact ha.tokenStep_congr hs.2.1
  · have ha : FinderTempsApart s
      { s with lit := l, key := k, cand := c, hops := h, curLen := u, bestLen := b, bestOff := o } := rfl
    rw [step_encoding hs, step_encoding (by exact hs)]
    exact ha.compressStep_congr

end Sys2Proof.Machine

/-! SUPPORT. The back-copy as a function of the memory before it, and the byte spaces as data (20 R50, R59, R60): O12 and
O59. -/

namespace Sys2Proof.Machine

/-! ## A back-copy is periodic -/

/-- A back-copy that completes was in bounds and had the one effect it can have (43 R174). -/
theorem backCopy_eq_ok {len off : Nat} {s t : State} (h : backCopy len off s = .ok t) :
    BackFits len off s ∧ t = backCopied len off s := by
  by_cases hf : BackFits len off s
  · rw [backCopy_ok hf] at h
    exact ⟨hf, (Except.ok.inj h).symm⟩
  · rw [backCopy_error hf] at h
    cases h

/-- Byte `k` of a back-copy in terms of the memory before it: the bytes below `off` read it directly, a later one reads
one period back (20 R60). -/
theorem read_backFill_mod {off len wp : Nat} {m : Memory} (h0 : 0 < off) (h1 : off ≤ wp) {k : Nat} (hk : k < len) :
    Memory.read (backFill off len wp m) (wp + k) = Memory.read m (wp - off + k % off) := by
  induction k using Nat.strong_induction_on with
  | _ k ih =>
    rw [read_backFill h0 h1, if_pos (by omega)]
    by_cases hlt : k < off
    · rw [read_backFill h0 h1, if_neg (by omega), Nat.mod_eq_of_lt hlt, Nat.sub_add_comm h1]
    · have hle := Nat.le_of_not_lt hlt
      rw [Nat.add_sub_assoc hle, ih (k - off) (by omega) (by omega), ← Nat.mod_eq_sub_mod hle]

/-- Settles O12: the bytes of a back-copy repeat with period `off`. -/
theorem backCopyIsPeriodic : Obligations.BackCopyIsPeriodic := by
  intro len off s t h0 h k hk
  obtain ⟨⟨hoff, -⟩, rfl⟩ := backCopy_eq_ok h
  refine ⟨?_, read_backFill_mod h0 hoff hk⟩
  exact (read_backFill h0 hoff (s.wp + k)).trans (if_pos (by omega))

/-! ## Equal memories are equal data -/

/-- Where indices rise, an entry that is listed is the one found at its index. -/
theorem Sparse.mem_iff_look {α : Type} {m : List (Nat × α)} (h : Sparse.Rising m) (c : Nat × α) :
    c ∈ m ↔ Sparse.look m c.1 = some c.2 := by
  refine ⟨fun hc => ?_, Sparse.mem_of_look⟩
  induction m with
  | nil => simp at hc
  | cons d r ih =>
    obtain ⟨hd, hr⟩ := List.pairwise_cons.1 h
    rcases List.mem_cons.1 hc with rfl | hc
    · rw [Sparse.look_cons, if_pos rfl]
    · rw [Sparse.look_cons, if_neg (hd c hc).ne', ih hr hc]

/-- Lists with rising indices are equal when they give the same entry at every index. -/
theorem Sparse.eq_of_look_eq {α : Type} {m n : List (Nat × α)} (hm : Sparse.Rising m) (hn : Sparse.Rising n)
    (h : ∀ a, Sparse.look m a = Sparse.look n a) : m = n := by
  have hirrefl : Std.Irrefl fun c d : Nat × α => c.1 < d.1 := ⟨fun c => Nat.lt_irrefl c.1⟩
  have hantisymm : Std.Antisymm fun c d : Nat × α => c.1 < d.1 := ⟨fun _ _ h h' => absurd h' (Nat.lt_asymm h)⟩
  exact List.Pairwise.eq_of_mem_iff hm hn fun c => by rw [Sparse.mem_iff_look hm, Sparse.mem_iff_look hn, h]

/-- Settles O59: in canonical form the bytes listed are exactly those that do not read as unlisted. -/
theorem equalMemoriesAreEqualData : Obligations.EqualMemoriesAreEqualData := by
  intro m n hm hn hread
  refine Sparse.eq_of_look_eq hm.1 hn.1 fun a => Option.ext fun v => ?_
  rw [Memory.look_of_wf hm, Memory.look_of_wf hn, hread]

end Sys2Proof.Machine

/-! SUPPORT. The token codec (30 R78 to R83): the opcode map by ranges and by masks, packing and unpacking as arithmetic on
the fields and the bytes, and that the two are inverse: O1 to O5. -/

namespace Sys2Proof

/-! ## The ranges of the fields (30 R73 to R77) -/

@[simp] theorem Instr.wf_shortMatch (lit len off : Nat) :
    (Instr.shortMatch lit len off).wf = true ↔ lit ≤ 3 ∧ 3 ≤ len ∧ len ≤ 10 ∧ 1 ≤ off ∧ off ≤ 1024 := by
  simp only [Instr.wf, literalLenOk, inRange, Bool.and_eq_true, decide_eq_true_eq, and_assoc]

@[simp] theorem Instr.wf_mediumMatch (lit len off : Nat) :
    (Instr.mediumMatch lit len off).wf = true ↔ lit ≤ 3 ∧ 4 ≤ len ∧ len ≤ 67 ∧ 1 ≤ off ∧ off ≤ 16384 := by
  simp only [Instr.wf, literalLenOk, inRange, Bool.and_eq_true, decide_eq_true_eq, and_assoc]

@[simp] theorem Instr.wf_longMatch (lit len off : Nat) :
    (Instr.longMatch lit len off).wf = true ↔ lit ≤ 3 ∧ 5 ≤ len ∧ len ≤ 1028 ∧ 1 ≤ off ∧ off ≤ 131072 := by
  simp only [Instr.wf, literalLenOk, inRange, Bool.and_eq_true, decide_eq_true_eq, and_assoc]

@[simp] theorem Instr.wf_rawRun (len : Nat) :
    (Instr.rawRun len).wf = true ↔ 4 ≤ len ∧ len ≤ 112 ∧ len % 4 = 0 := by
  simp only [Instr.wf, inRange, Bool.and_eq_true, decide_eq_true_eq, and_assoc]

@[simp] theorem Instr.wf_terminal (lit : Nat) : (Instr.terminal lit).wf = true ↔ lit ≤ 3 := by
  simp only [Instr.wf, literalLenOk, decide_eq_true_eq]

/-! ## The opcode map (30 R78) -/

/-- The least `byte0` of a kind (30 R78). -/
def Kind.lo : Kind → Nat
  | .shortMatch => 0x00
  | .mediumMatch => 0x80
  | .longMatch => 0xC0
  | .rawRun => 0xE0
  | .terminal => 0xFC

/-- The first value past the `byte0` values of a kind (30 R78). -/
def Kind.hi : Kind → Nat
  | .shortMatch => 0x80
  | .mediumMatch => 0xC0
  | .longMatch => 0xE0
  | .rawRun => 0xFC
  | .terminal => 0x100

/-- The kinds have disjoint ranges, so `byte0` is of a kind exactly when it is in the kind's range (30 R78). -/
theorem kindOf_eq_iff (b : Byte) (k : Kind) : kindOf b = k ↔ k.lo ≤ b.toNat ∧ b.toNat < k.hi := by
  have hb := b.isLt
  rw [kindOf_eq]
  split_ifs <;> cases k
  all_goals
    simp only [Kind.lo, Kind.hi, reduceCtorEq, true_iff, false_iff]
    omega

/-! ## Packing as arithmetic (30 R81)

Of a token in range no field runs into another, so every join is a sum that fits a byte. -/

theorem byte_eq_iff (n : Nat) (b : Byte) : byte n = b ↔ n % 256 = b.toNat := by
  rw [← BitVec.toNat_inj, BitVec.toNat_ofNat]

theorem encode_shortMatch_eq_iff {lit len off : Nat} (h : (Instr.shortMatch lit len off).wf = true) (b0 b1 : Byte) :
    encode (.shortMatch lit len off) = [b0, b1] ↔
      (off - 1) / 256 * 32 + (len - 3) * 4 + lit = b0.toNat ∧ (off - 1) % 256 = b1.toNat := by
  have hr := (Instr.wf_shortMatch ..).1 h
  have hlow : (len - 3) <<< 2 ||| lit = (len - 3) * 4 + lit := shiftLeft_or _ (by omega)
  have hhigh : (off - 1) >>> 8 <<< 5 ||| ((len - 3) * 4 + lit) = (off - 1) >>> 8 * 32 + ((len - 3) * 4 + lit) :=
    shiftLeft_or _ (by omega)
  rw [encode, Nat.or_assoc, hlow, hhigh, and_0xFF]
  simp only [List.cons.injEq, byte_eq_iff, and_true]
  omega

theorem encode_mediumMatch_eq_iff {lit len off : Nat} (h : (Instr.mediumMatch lit len off).wf = true)
    (b0 b1 b2 : Byte) :
    encode (.mediumMatch lit len off) = [b0, b1, b2] ↔
      0x80 + (len - 4) = b0.toNat ∧ lit * 64 + (off - 1) / 256 = b1.toNat ∧ (off - 1) % 256 = b2.toNat := by
  have hr := (Instr.wf_mediumMatch ..).1 h
  have hhigh : lit <<< 6 ||| (off - 1) >>> 8 = lit * 64 + (off - 1) >>> 8 := shiftLeft_or _ (by omega)
  rw [encode, or_0x80 (by omega), hhigh, and_0xFF]
  simp only [List.cons.injEq, byte_eq_iff, and_true]
  omega

theorem encode_longMatch_eq_iff {lit len off : Nat} (h : (Instr.longMatch lit len off).wf = true)
    (b0 b1 b2 b3 : Byte) :
    encode (.longMatch lit len off) = [b0, b1, b2, b3] ↔
      0xC0 + ((off - 1) / 65536 * 16 + (len - 5) / 256 * 4 + lit) = b0.toNat ∧
        (off - 1) / 256 % 256 = b1.toNat ∧ (off - 1) % 256 = b2.toNat ∧ (len - 5) % 256 = b3.toNat := by
  have hr := (Instr.wf_longMatch ..).1 h
  have hlow : (len - 5) >>> 8 <<< 2 ||| lit = (len - 5) >>> 8 * 4 + lit := shiftLeft_or _ (by omega)
  have hhigh : (off - 1) >>> 16 <<< 4 ||| ((len - 5) >>> 8 * 4 + lit) =
      (off - 1) >>> 16 * 16 + ((len - 5) >>> 8 * 4 + lit) := shiftLeft_or _ (by omega)
  rw [encode, Nat.or_assoc, Nat.or_assoc, hlow, hhigh, or_0xC0 (by omega)]
  simp only [and_0xFF, List.cons.injEq, byte_eq_iff, and_true]
  omega

theorem encode_rawRun_eq_iff {len : Nat} (h : (Instr.rawRun len).wf = true) (b0 : Byte) :
    encode (.rawRun len) = [b0] ↔ 0xE0 + (len / 4 - 1) = b0.toNat := by
  have hr := (Instr.wf_rawRun len).1 h
  rw [encode, List.cons.injEq, byte_eq_iff, Nat.mod_eq_of_lt (by omega)]
  exact and_iff_left rfl

theorem encode_terminal_eq_iff {lit : Nat} (h : (Instr.terminal lit).wf = true) (b0 : Byte) :
    encode (.terminal lit) = [b0] ↔ 0xFC + lit = b0.toNat := by
  have hr := (Instr.wf_terminal lit).1 h
  rw [encode, or_0xFC (by omega), List.cons.injEq, byte_eq_iff, Nat.mod_eq_of_lt (by omega)]
  exact and_iff_left rfl

/-! ## Unpacking as arithmetic (30 R80) -/

theorem unpackShort_eq (b0 b1 : Byte) :
    unpackShort b0 b1 = .shortMatch (b0.toNat % 4) (b0.toNat / 4 % 8 + 3) (b0.toNat / 32 * 256 + b1.toNat + 1) := by
  simp only [unpackShort, and_3, and_7, Nat.shiftRight_eq_div_pow, Nat.shiftLeft_eq, Nat.reducePow]

theorem unpackMedium_eq (b0 b1 b2 : Byte) :
    unpackMedium b0 b1 b2 =
      .mediumMatch (b1.toNat / 64 % 4) (b0.toNat % 64 + 4) (b1.toNat % 64 * 256 + b2.toNat + 1) := by
  simp only [unpackMedium, and_3, and_0x3F, Nat.shiftRight_eq_div_pow, Nat.reducePow]

theorem unpackLong_eq (b0 b1 b2 b3 : Byte) :
    unpackLong b0 b1 b2 b3 = .longMatch (b0.toNat % 4) (b0.toNat / 4 % 4 * 256 + b3.toNat + 5)
      (b0.toNat / 16 % 2 * 65536 + 256 * b1.toNat + b2.toNat + 1) := by
  simp only [unpackLong, and_3, and_0x10 b0.isLt, Nat.shiftRight_eq_div_pow, Nat.shiftLeft_eq, Nat.reducePow,
    Nat.mul_assoc, Nat.reduceMul]

theorem unpackRaw_eq (b0 : Byte) : unpackRaw b0 = .rawRun (b0.toNat % 32 * 4 + 4) := by
  rw [unpackRaw, and_0x1F]

theorem unpackTerminal_eq (b0 : Byte) : unpackTerminal b0 = .terminal (b0.toNat % 4) := by
  rw [unpackTerminal, and_3]

/-! ## Unpacking is the inverse of packing (30 R82)

Both sides are systems of equations between the fields and the bytes with the same solutions. -/

theorem unpackShort_iff_encode (b0 b1 : Byte) (lit len off : Nat) :
    kindOf b0 = .shortMatch ∧ unpackShort b0 b1 = .shortMatch lit len off ↔
      (Instr.shortMatch lit len off).wf = true ∧ encode (.shortMatch lit len off) = [b0, b1] := by
  have h1 := b1.isLt
  rw [and_congr_right fun h => encode_shortMatch_eq_iff h b0 b1, Instr.wf_shortMatch, kindOf_eq_iff, unpackShort_eq,
    Instr.shortMatch.injEq, Kind.lo, Kind.hi]
  omega

theorem unpackMedium_iff_encode (b0 b1 b2 : Byte) (lit len off : Nat) :
    kindOf b0 = .mediumMatch ∧ unpackMedium b0 b1 b2 = .mediumMatch lit len off ↔
      (Instr.mediumMatch lit len off).wf = true ∧ encode (.mediumMatch lit len off) = [b0, b1, b2] := by
  have h1 := b1.isLt
  have h2 := b2.isLt
  rw [and_congr_right fun h => encode_mediumMatch_eq_iff h b0 b1 b2, Instr.wf_mediumMatch, kindOf_eq_iff,
    unpackMedium_eq, Instr.mediumMatch.injEq, Kind.lo, Kind.hi]
  omega

theorem unpackLong_iff_encode (b0 b1 b2 b3 : Byte) (lit len off : Nat) :
    kindOf b0 = .longMatch ∧ unpackLong b0 b1 b2 b3 = .longMatch lit len off ↔
      (Instr.longMatch lit len off).wf = true ∧ encode (.longMatch lit len off) = [b0, b1, b2, b3] := by
  have h1 := b1.isLt
  have h2 := b2.isLt
  have h3 := b3.isLt
  rw [and_congr_right fun h => encode_longMatch_eq_iff h b0 b1 b2 b3, Instr.wf_longMatch, kindOf_eq_iff,
    unpackLong_eq, Instr.longMatch.injEq, Kind.lo, Kind.hi]
  omega

theorem unpackRaw_iff_encode (b0 : Byte) (len : Nat) :
    kindOf b0 = .rawRun ∧ unpackRaw b0 = .rawRun len ↔
      (Instr.rawRun len).wf = true ∧ encode (.rawRun len) = [b0] := by
  rw [and_congr_right fun h => encode_rawRun_eq_iff h b0, Instr.wf_rawRun, kindOf_eq_iff, unpackRaw_eq,
    Instr.rawRun.injEq, Kind.lo, Kind.hi]
  omega

theorem unpackTerminal_iff_encode (b0 : Byte) (lit : Nat) :
    kindOf b0 = .terminal ∧ unpackTerminal b0 = .terminal lit ↔
      (Instr.terminal lit).wf = true ∧ encode (.terminal lit) = [b0] := by
  rw [and_congr_right fun h => encode_terminal_eq_iff h b0, Instr.wf_terminal, kindOf_eq_iff, unpackTerminal_eq,
    Instr.terminal.injEq, Kind.lo, Kind.hi]
  omega

/-! ## Decoding and encoding (30 R82): O1 and O2 -/

/-- `cs` are the control bytes of the token: as many as the kind `byte0` selects, unpacked as that kind (30 R78 to
R80). -/
inductive Spells : List Byte → Instr → Prop where
  | shortMatch {b0 b1 : Byte} {lit len off : Nat}
      (h : kindOf b0 = .shortMatch ∧ unpackShort b0 b1 = .shortMatch lit len off) :
      Spells [b0, b1] (.shortMatch lit len off)
  | mediumMatch {b0 b1 b2 : Byte} {lit len off : Nat}
      (h : kindOf b0 = .mediumMatch ∧ unpackMedium b0 b1 b2 = .mediumMatch lit len off) :
      Spells [b0, b1, b2] (.mediumMatch lit len off)
  | longMatch {b0 b1 b2 b3 : Byte} {lit len off : Nat}
      (h : kindOf b0 = .longMatch ∧ unpackLong b0 b1 b2 b3 = .longMatch lit len off) :
      Spells [b0, b1, b2, b3] (.longMatch lit len off)
  | rawRun {b0 : Byte} {len : Nat} (h : kindOf b0 = .rawRun ∧ unpackRaw b0 = .rawRun len) : Spells [b0] (.rawRun len)
  | terminal {b0 : Byte} {lit : Nat} (h : kindOf b0 = .terminal ∧ unpackTerminal b0 = .terminal lit) :
      Spells [b0] (.terminal lit)

theorem decode_of_spells {cs : List Byte} {i : Instr} (h : Spells cs i) (rest : List Byte) :
    decode (cs ++ rest) = .ok (i, rest) := by
  cases h with
  | shortMatch h | mediumMatch h | longMatch h | rawRun h | terminal h =>
    simp only [List.cons_append, List.nil_append, decode, h]

theorem spells_of_decode {bs rest : List Byte} {i : Instr} (h : decode bs = .ok (i, rest)) :
    ∃ cs, Spells cs i ∧ bs = cs ++ rest := by
  unfold decode at h
  split at h
  · cases h
  · split at h
    · cases h
      exact ⟨_, .terminal ⟨‹_›, rfl⟩, rfl⟩
    · cases h
      exact ⟨_, .rawRun ⟨‹_›, rfl⟩, rfl⟩
    · split at h <;> cases h
      exact ⟨_, .shortMatch ⟨‹_›, rfl⟩, rfl⟩
    · split at h <;> cases h
      exact ⟨_, .mediumMatch ⟨‹_›, rfl⟩, rfl⟩
    · split at h <;> cases h
      exact ⟨_, .longMatch ⟨‹_›, rfl⟩, rfl⟩

/-- Packing and unpacking are inverse (30 R82). -/
theorem spells_iff (cs : List Byte) (i : Instr) : Spells cs i ↔ i.wf = true ∧ encode i = cs := by
  constructor
  · intro h
    cases h with
    | shortMatch h => exact (unpackShort_iff_encode ..).1 h
    | mediumMatch h => exact (unpackMedium_iff_encode ..).1 h
    | longMatch h => exact (unpackLong_iff_encode ..).1 h
    | rawRun h => exact (unpackRaw_iff_encode ..).1 h
    | terminal h => exact (unpackTerminal_iff_encode ..).1 h
  · rintro ⟨hwf, rfl⟩
    cases i with
    | shortMatch lit len off => exact .shortMatch ((unpackShort_iff_encode ..).2 ⟨hwf, rfl⟩)
    | mediumMatch lit len off => exact .mediumMatch ((unpackMedium_iff_encode ..).2 ⟨hwf, rfl⟩)
    | longMatch lit len off => exact .longMatch ((unpackLong_iff_encode ..).2 ⟨hwf, rfl⟩)
    | rawRun len => exact .rawRun ((unpackRaw_iff_encode ..).2 ⟨hwf, rfl⟩)
    | terminal lit => exact .terminal ((unpackTerminal_iff_encode ..).2 ⟨hwf, rfl⟩)

/-- Settles O1: the control bytes that packing gives spell the token, and decoding reads what they spell. -/
theorem decodeOfEncode : Obligations.DecodeOfEncode :=
  fun i rest h => decode_of_spells ((spells_iff _ i).2 ⟨h, rfl⟩) rest

/-- Settles O2: decoding reads only bytes that spell a token, and those are its packing. -/
theorem encodeOfDecode : Obligations.EncodeOfDecode := by
  intro bs rest i h
  obtain ⟨cs, hs, rfl⟩ := spells_of_decode h
  obtain ⟨hwf, rfl⟩ := (spells_iff _ _).1 hs
  exact ⟨hwf, rfl⟩

/-! ## The opcode map by masks, the spec's words and the lengths (30 R78, R79): O3, O4 and O5 -/

theorem and_0x80_eq_iff : ∀ b : Byte, b &&& 0x80 = 0x00 ↔ b.toNat < 0x80 := by decide
theorem and_0xC0_eq_iff : ∀ b : Byte, b &&& 0xC0 = 0x80 ↔ 0x80 ≤ b.toNat ∧ b.toNat < 0xC0 := by decide
theorem and_0xE0_eq_0xC0_iff : ∀ b : Byte, b &&& 0xE0 = 0xC0 ↔ 0xC0 ≤ b.toNat ∧ b.toNat < 0xE0 := by decide
theorem and_0xE0_eq_0xE0_iff : ∀ b : Byte, b &&& 0xE0 = 0xE0 ↔ 0xE0 ≤ b.toNat := by decide
theorem and_0xFC_eq_iff : ∀ b : Byte, b &&& 0xFC = 0xFC ↔ 0xFC ≤ b.toNat := by decide

/-- Settles O3: the ranges are those of `kindOf_eq_iff`, and each mask and match selects one of them. -/
theorem firstByteSelectsKind : Obligations.FirstByteSelectsKind := by
  intro b
  have hb := b.isLt
  simp only [kindOf_eq_iff, Kind.lo, Kind.hi, Kind.controlBytes, ne_eq, and_0x80_eq_iff, and_0xC0_eq_iff,
    and_0xE0_eq_0xC0_iff, and_0xE0_eq_0xE0_iff, and_0xFC_eq_iff, true_and, and_true]
  omega

/-- Settles O4: by decoding each of the nine words. -/
theorem specWordsDecode : Obligations.SpecWordsDecode := by
  unfold Obligations.SpecWordsDecode
  decide

/-- Settles O5: the length of the encoding for every token, and the rest from the ranges of its fields. -/
theorem tokenLengths : Obligations.TokenLengths := by
  intro i h
  refine ⟨Machine.encode_length i, ?_⟩
  cases i with
  | shortMatch lit len off =>
    have hr := (Instr.wf_shortMatch ..).1 h
    simp only [Instr.literals, Instr.produced, true_and]
    omega
  | mediumMatch lit len off =>
    have hr := (Instr.wf_mediumMatch ..).1 h
    simp only [Instr.literals, Instr.produced, true_and]
    omega
  | longMatch lit len off =>
    have hr := (Instr.wf_longMatch ..).1 h
    simp only [Instr.literals, Instr.produced, true_and]
    omega
  | rawRun len => exact ⟨rfl, rfl, (Instr.wf_rawRun len).1 h⟩
  | terminal lit => exact ⟨rfl, rfl, (Instr.wf_terminal lit).1 h⟩

end Sys2Proof

/-! SUPPORT. The header (40 R100 to R106): what the start step of each operation does with it, and that no later step of
COMPRESS rewrites it: O6, O7 and O8. -/

namespace Sys2Proof.Machine

/-! ## The header bytes (40 R100) -/

/-- The magic pair and the big-endian length, by division. -/
theorem headerBytes_eq (n : Nat) :
    headerBytes n = [0x10, 0xFB, byte (n / 65536), byte (n / 256), byte n] := by
  have hb (k : Nat) : byte (k % 256) = byte k := by simp [byte_eq_iff]
  simp only [headerBytes, and_0xFF, Nat.shiftRight_eq_div_pow, hb]
  rfl

/-- The three length bytes of a size the header can hold. -/
theorem sizeBytes_toNat {n : Nat} (h : n ≤ 0xFFFFFF) :
    (byte (n / 65536)).toNat = n / 65536 ∧ (byte (n / 256)).toNat = n / 256 % 256 ∧ (byte n).toNat = n % 256 :=
  ⟨Nat.mod_eq_of_lt (by omega), rfl, rfl⟩

/-- The five bytes of a space that starts with the header of `n`. -/
theorem read_of_slice_eq_headerBytes {m : Memory} {n : Nat} (h : Memory.slice m 0 5 = headerBytes n) :
    Memory.read m 0 = 0x10 ∧ Memory.read m 1 = 0xFB ∧ Memory.read m 2 = byte (n / 65536) ∧
      Memory.read m 3 = byte (n / 256) ∧ Memory.read m 4 = byte n := by
  simpa [headerBytes_eq, Memory.slice] using h

/-! ## The start of COMPRESS (42 R130) -/

/-- The state in which a start of COMPRESS that fits the header ends. -/
def headerWritten (s : State) : State :=
  { s with head := [], scan := 0, flushed := 0, dlen := 5, dst := Memory.writeBytes s.dst 0 (headerBytes s.srcLen) }

theorem startCompress_ok {s : State} (h : s.srcLen ≤ 0xFFFFFF) : startCompress s = .next (headerWritten s) :=
  (startCompress_eq s).trans (if_neg (Nat.not_lt.2 h))

theorem startCompress_tooLarge {s : State} (h : 0xFFFFFF < s.srcLen) :
    startCompress s = .next (raise .inputTooLarge s) :=
  (startCompress_eq s).trans (if_pos h)

theorem headerWritten_slice (s : State) : Memory.slice (headerWritten s).dst 0 5 = headerBytes s.srcLen :=
  Memory.slice_writeBytes s.dst 0 (headerBytes s.srcLen)

/-- Settles O6: the five bytes read back as `headerBytes`, and the rest is the one update of `headerWritten`. -/
theorem compressStarts : Obligations.CompressStarts := by
  refine fun s => ⟨fun h => ⟨_, startCompress_ok h, fun _ => rfl, rfl, rfl, rfl, ?_⟩, startCompress_tooLarge⟩
  obtain ⟨h0, h1, h2, h3, h4⟩ := read_of_slice_eq_headerBytes (headerWritten_slice s)
  obtain ⟨n2, n3, n4⟩ := sizeBytes_toNat h
  refine ⟨h0, h1, h2 ▸ n2, h3 ▸ n3, h4 ▸ n4, fun a ha => ?_, rfl⟩
  exact (Memory.read_writeBytes ..).trans (if_neg fun hlt => Nat.not_lt.2 ha hlt.2)

/-! ## The header read (40 R102, R103) -/

theorem magicOk_iff (s : State) :
    magicOk s = true ↔ ((Memory.read s.src 0).toNat = 0x10 ∨ (Memory.read s.src 0).toNat = 0x11) ∧
      (Memory.read s.src 1).toNat = 0xFB := by
  simp only [magicOk, Bool.and_eq_true, Bool.or_eq_true, beq_iff_eq]
  rfl

theorem headerLength_eq (ext : Nat) (s : State) :
    headerLength ext s = if (Memory.read s.src 0).toNat % 2 = 0 then 5 else ext := by
  rw [headerLength, Nat.and_one_is_mod]
  rfl

theorem startDecompress_invalidMagic {s : State} (h : s.srcLen < 2 ∨ ¬magicOk s = true) :
    startDecompress s = .next (raise .invalidMagic s) := by
  by_cases h2 : s.srcLen < 2
  · simp [startDecompress, readHeader, h2]
  · simp [startDecompress, readHeader, h2, h.resolve_left h2]

theorem startDecompress_corrupt {s : State} (h2 : 2 ≤ s.srcLen) (hm : magicOk s = true)
    (hl : s.srcLen < headerLength (extLength s.hdrExtLen) s) :
    startDecompress s = .next (raise .corrupt s) := by
  simp [startDecompress, readHeader, Nat.not_lt.2 h2, hm, hl]

theorem startDecompress_ok {s : State} (h2 : 2 ≤ s.srcLen) (hm : magicOk s = true)
    (hl : headerLength (extLength s.hdrExtLen) s ≤ s.srcLen) :
    startDecompress s = .next { s with
      hlen := headerLength (extLength s.hdrExtLen) s, size := headerSize s,
      ip := headerLength (extLength s.hdrExtLen) s, wp := 0, dstate := .running } := by
  simp [startDecompress, readHeader, Nat.not_lt.2 h2, hm, Nat.not_lt.2 hl]

/-- Settles O7: one lemma per outcome of the header read, the magic check as `magicOk_iff` and the header length as
`headerLength_eq` say them. -/
theorem decompressStarts : Obligations.DecompressStarts := by
  intro s b magic ext hlen
  have hmagic : magicOk s = true ↔ magic := magicOk_iff s
  have hext : extLength s.hdrExtLen = ext := by
    cases he : s.hdrExtLen <;> simp only [ext, he] <;> rfl
  have hlength : headerLength (extLength s.hdrExtLen) s = hlen := by
    rw [headerLength_eq, hext]
  refine ⟨fun h => ?_, fun h2 hm hl => ?_, fun h2 hm hl => ?_⟩
  · exact startDecompress_invalidMagic (h.imp_right (mt hmagic.1))
  · exact startDecompress_corrupt h2 (hmagic.2 hm) (hlength ▸ hl)
  · rw [startDecompress_ok h2 (hmagic.2 hm) (hlength ▸ hl), hlength]
    rfl

/-- The header that COMPRESS writes for `n` bytes reads back as a size of `n` and a length of 5 (40 R106). -/
theorem startDecompress_headerBytes {u : State} {n : Nat} (hn : n ≤ 0xFFFFFF) (hlen : 5 ≤ u.srcLen)
    (h : Memory.slice u.src 0 5 = headerBytes n) :
    ∃ v, startDecompress u = .next v ∧ v.size = n ∧ v.hlen = 5 := by
  obtain ⟨h0, h1, h2, h3, h4⟩ := read_of_slice_eq_headerBytes h
  obtain ⟨n2, n3, n4⟩ := sizeBytes_toNat hn
  have hm : magicOk u = true := by simp [magicOk_iff, h0, h1]
  have hl : headerLength (extLength u.hdrExtLen) u = 5 := by simp [headerLength_eq, h0]
  have hs : headerSize u = n := by
    rw [headerSize, h2, h3, h4, n2, n3, n4]
    omega
  exact ⟨_, startDecompress_ok (by omega) hm (hl ▸ hlen), hs, hl⟩

/-! ## A run of COMPRESS (42 R131) -/

theorem run_succ {s t : State} (h : step s = .next t) (k : Nat) :
    Sys2Proof.core.run (k + 1) s = Sys2Proof.core.run k t := by
  have hstep : Sys2Proof.core.step s = .next t := h
  simp only [Host.Core.run, hstep]

/-- A position leaves the encoder running, one position further in the same input. -/
theorem position_encoding {s : State} (h : Encoding s) :
    Encoding (endPosition (scanned s)) ∧ (endPosition (scanned s)).scan = s.scan + 1 ∧
      (endPosition (scanned s)).srcLen = s.srcLen := by
  rw [scanned_frame s]
  exact ⟨h, rfl, rfl⟩

/-- The induction over the positions of COMPRESS: what every position keeps holds at the end of the input, from where
the end step completes the operation. -/
theorem compress_run {P : State → Prop}
    (hkeep : ∀ s, s.scan < s.srcLen → P s → P (endPosition (scanned s)))
    {s : State} (hs : Encoding s) (hle : s.scan ≤ s.srcLen) (hP : P s) :
    ∃ u, P u ∧ Encoding u ∧ u.scan = u.srcLen ∧ u.srcLen = s.srcLen ∧
      Sys2Proof.core.run (s.srcLen - s.scan + 1) s = .next (complete (dropFinderTemps (finishStream u))) := by
  have hstep := (step_encoding hs).trans (compressStep_eq s)
  induction hk : s.srcLen - s.scan generalizing s with
  | zero =>
    rw [if_neg (by omega)] at hstep
    exact ⟨s, hP, hs, by omega, rfl, run_succ hstep 0⟩
  | succ k ih =>
    rw [if_pos (by omega)] at hstep
    obtain ⟨he, hscan, hlen⟩ := position_encoding hs
    obtain ⟨u, hPu, hu, hend, hul, hrun⟩ := ih he (by omega) (hkeep s (by omega) hP)
      ((step_encoding he).trans (compressStep_eq _)) (by omega)
    exact ⟨u, hPu, hu, hend, hul.trans hlen, (run_succ hstep _).trans hrun⟩

/-! ## The header stays (42 R150) -/

/-- Bytes written from `a` on leave the bytes before `a`. -/
theorem Memory.slice_writeBytes_below (m : Memory) {a k : Nat} (vs : List Byte) (h : k ≤ a) :
    Memory.slice (Memory.writeBytes m a vs) 0 k = Memory.slice m 0 k :=
  Memory.slice_congr fun i hi => (Memory.read_writeBytes ..).trans (if_neg (by omega))

/-- The evaluation of a position leaves DST below `dlen`: an accepted match is appended (42 R137). -/
theorem scanned_dst_below (s : State) {k : Nat} (h : k ≤ s.dlen) :
    Memory.slice (scanned s).dst 0 k = Memory.slice s.dst 0 k := by
  rw [scanned]
  split
  · split
    · split
      · rw [matchEmitted, appendAll_eq, finderStep_inserts true s]
        exact Memory.slice_writeBytes_below s.dst _ h
      · rw [finderStep_inserts true s]
    · rw [finderStep_inserts false s]
  · rfl

/-- The end of the stream leaves DST below `dlen` (42 R145, R146). -/
theorem finishStream_dst_below {s : State} (hf : s.flushed ≤ s.srcLen) {k : Nat} (h : k ≤ s.dlen) :
    Memory.slice (finishStream s).dst 0 k = Memory.slice s.dst 0 k := by
  rw [finishStream_eq hf, appendAll_eq]
  exact Memory.slice_writeBytes_below s.dst _ h

/-- The encoder's bounds, with `bytes` as the header in DST. -/
def HeaderStands (bytes : List Byte) (s : State) : Prop := EncoderOk s ∧ Memory.slice s.dst 0 5 = bytes

theorem position_headerStands {bytes : List Byte} {s : State} (hs : s.scan < s.srcLen) (h : HeaderStands bytes s) :
    HeaderStands bytes (endPosition (scanned s)) := by
  obtain ⟨he, hb⟩ := h
  have hscan : (scanned s).scan < (scanned s).srcLen := by
    rw [scanned_frame s]
    exact hs
  exact ⟨endPosition_encoderOk (scanned_encoderOk he) hscan, (scanned_dst_below s he.header).trans hb⟩

/-! ## A start command of COMPRESS (70 R225) -/

/-- An idle block takes a start command (70 R225). -/
theorem step_started {s : State} (h : s.status ≠ .busy) (c : StartCmd) :
    step (started s c) = startOperation c (started s c) :=
  if_neg fun hb => h (by simpa [State.busy, started] using hb)

theorem latch_port (c : StartCmd) (s : State) : (latch c s).port = none := by
  rw [latch]
  split <;> rfl

theorem startRefusal_compressCmd {bs : List Byte} {wb mh : Option Int} (hn : bs.length ≤ 0xFFFFFF)
    (hw : windowBitsOk wb = true) (hm : maxHopsOk mh = true) : startRefusal (Ref.compressCmd bs wb mh) = none := by
  have hl : ¬Config.srcLenLimit ≤ bs.length := by
    rw [Config.srcLenLimit]
    omega
  simp [startRefusal, Ref.compressCmd, hl, hw, hm]

/-- A legal COMPRESS of at most `SIZE_MAX` bytes starts: the encoder runs within its bounds, at position 0, behind its
header. -/
theorem step_started_compress {s : State} {bs : List Byte} {wb mh : Option Int} (hs : s.status ≠ .busy)
    (hn : bs.length ≤ 0xFFFFFF) (hw : windowBitsOk wb = true) (hm : maxHopsOk mh = true) :
    ∃ t, step (started s (Ref.compressCmd bs wb mh)) = .next t ∧ Encoding t ∧ t.scan = 0 ∧
      HeaderStands (headerBytes bs.length) t := by
  have hr := startRefusal_compressCmd hn hw hm
  generalize hc : Ref.compressCmd bs wb mh = c at hr
  have hjob : c.job = .compress wb mh := by rw [← hc]; rfl
  have hL := latch_latched c (started s c)
  have hlen : (latch c (started s c)).srcLen = bs.length := hL.srcLen.trans (by rw [← hc]; rfl)
  refine ⟨headerWritten (latch c (started s c)), ?_, ⟨latch_port c _, latch_op_compress hjob _⟩, rfl, ?_, ?_⟩
  · rw [step_started hs, startOperation, hr, hjob]
    exact startCompress_ok (hlen ▸ hn)
  · exact compressStart_encoderOk (hlen ▸ hn) (latch_windowBits_le hjob hr _) hL.dst hL.prev
  · rw [headerWritten_slice, hlen]

/-- Settles O8: the start writes the header, every position and the end step leave it (`HeaderStands`), and the header
read gives the length back. -/
theorem headerFidelity : Obligations.HeaderFidelity := by
  intro s bs wb mh hs hn hw hm
  obtain ⟨t, hstart, henc, hscan, ht⟩ := step_started_compress hs hn hw hm
  obtain ⟨u, ⟨hu, hdst⟩, -, -, -, hrun⟩ :=
    compress_run (fun _ => position_headerStands) henc (hscan ▸ Nat.zero_le _) ht
  have hslice := (finishStream_dst_below hu.flushed hu.header).trans hdst
  refine ⟨_, ⟨_, (run_succ hstart _).trans hrun⟩, rfl, rfl, hslice, fun v hv hsrc => ?_⟩
  exact startDecompress_headerBytes hn hv (hsrc.trans hslice)

end Sys2Proof.Machine

/-! SUPPORT. The match finder (41 R110 to R120): what an insertion reads, links and heads, how far two regions agree, and
the chains that the insertions build: O41, O42 and O45. -/

namespace Sys2Proof.Machine

/-! ## HEAD and PREV after a write (00 R10) -/

theorem headRead_headWrite (k p : Nat) (s : State) (j : Nat) :
    headRead (headWrite k p s) j = if j = k then some p else headRead s j :=
  Sparse.look_put ..

theorem prevRead_prevWrite (i : Nat) (e : Option Nat) (s : State) (j : Nat) :
    prevRead (prevWrite i e s) j = if j = i then e else prevRead s j := by
  rw [prevRead, prevWrite_prev, Sparse.look_put]
  split <;> rfl

theorem headRead_insertPosition (s : State) (k : Nat) :
    headRead (insertPosition s) k = if k = s.key then some s.scan else headRead s k :=
  headRead_headWrite ..

theorem prevRead_insertPosition (s : State) (i : Nat) :
    prevRead (insertPosition s) i = if i = s.scan % window s then headRead s s.key else prevRead s i :=
  prevRead_prevWrite _ _ s i

/-- Settles O41: each table reads as after its one write (`headRead_insertPosition`, `prevRead_insertPosition`). -/
theorem insertLinksThenHeads : Obligations.InsertLinksThenHeads := by
  intro s
  refine ⟨rfl, ?_, ?_, fun k hk => ?_, fun i hi => ?_, rfl⟩
  · rw [prevRead_insertPosition, if_pos rfl]
  · rw [headRead_insertPosition, if_pos rfl]
  · rw [headRead_insertPosition, if_neg hk]
  · rw [prevRead_insertPosition, if_neg hi]

/-! ## PREFIXLEN (41 R115) -/

theorem read_eq_of_lt_prefixLen {src : Memory} {p c cap i : Nat} (h : i < prefixLen src p c cap) :
    Memory.read src (c + i) = Memory.read src (p + i) := by
  induction cap generalizing p c i with
  | zero => exact absurd h (Nat.not_lt_zero i)
  | succ cap ih =>
    rw [prefixLen] at h
    split at h
    · cases i with
      | zero => assumption
      | succ i =>
        have hi := ih (Nat.lt_of_succ_lt_succ h)
        rwa [Nat.add_right_comm c, Nat.add_right_comm p] at hi
    · exact absurd h (Nat.not_lt_zero i)

theorem le_prefixLen {src : Memory} {p c cap k : Nat} (hk : k ≤ cap)
    (h : ∀ i, i < k → Memory.read src (c + i) = Memory.read src (p + i)) : k ≤ prefixLen src p c cap := by
  induction cap generalizing p c k with
  | zero => exact hk
  | succ cap ih =>
    cases k with
    | zero => exact Nat.zero_le _
    | succ k =>
      have h0 : Memory.read src c = Memory.read src p := h 0 (Nat.succ_pos k)
      rw [prefixLen, if_pos h0]
      refine Nat.succ_le_succ (ih (Nat.le_of_succ_le_succ hk) fun i hi => ?_)
      rw [Nat.add_right_comm c, Nat.add_right_comm p]
      exact h (i + 1) (Nat.succ_lt_succ hi)

/-- Settles O42: the agreement ends at the cap or at the first byte that differs. -/
theorem prefixLenIsLargest : Obligations.PrefixLenIsLargest := fun src p c cap =>
  ⟨prefixLen_le src p c cap, fun _ => read_eq_of_lt_prefixLen, fun _ => le_prefixLen⟩

/-! ## The newest occurrence of a key -/

theorem Ref.lastBefore_succ (src : Memory) (k p : Nat) :
    Ref.lastBefore src k (p + 1) = if keyAt src p = k then some p else Ref.lastBefore src k p := rfl

theorem Ref.lastBefore_eq_some {src : Memory} {k n c : Nat} (h : Ref.lastBefore src k n = some c) :
    c < n ∧ keyAt src c = k := by
  induction n with
  | zero => cases h
  | succ n ih =>
    rw [Ref.lastBefore_succ] at h
    split at h
    · cases h
      exact ⟨Nat.lt_succ_self _, ‹_›⟩
    · exact (ih h).imp_left Nat.lt_succ_of_lt

/-! ## The chains (41 R120) -/

/-- The chain invariant with the positions below `n` inserted: the tables record newest occurrences (10 R31, R32). -/
structure ChainsTo (n : Nat) (s : State) : Prop where
  head : ∀ k, headRead s k = Ref.lastBefore s.src k n
  prev : ∀ q, q < n → n ≤ q + window s →
    Sparse.look s.prev (q % window s) = some (Ref.lastBefore s.src (keyAt s.src q) q)

theorem chainsOk_iff (s : State) : ChainsOk s ↔ ChainsTo (inserted s) s :=
  ⟨fun h => ⟨h.head, h.prev⟩, fun h => ⟨h.head, h.prev⟩⟩

/-- Until the input's last byte is passed, all positions below `scan` have been inserted (41 R110). -/
theorem inserted_eq_scan {s : State} (h : s.scan < s.srcLen) : inserted s = s.scan :=
  Nat.min_eq_left (Nat.le_sub_one_of_lt h)

theorem ChainsOk.chainsTo_scan {s : State} (h : ChainsOk s) (hs : s.scan < s.srcLen) : ChainsTo s.scan s :=
  inserted_eq_scan hs ▸ (chainsOk_iff s).1 h

/-- Two positions less than a window apart have different entries of PREV (10 R32). -/
theorem mod_window_ne {q p W : Nat} (hq : q < p) (hp : p < q + W) : q % W ≠ p % W := by
  intro h
  have hz : (p - q) % W = 0 := Nat.sub_mod_eq_zero_of_mod_eq h.symm
  rw [Nat.mod_eq_of_lt (by omega)] at hz
  omega

/-- An insertion extends the chains by its position: the entry it overwrites is one window back (41 R112, R120). -/
theorem ChainsTo.insert {s t : State} (h : ChainsTo s.scan s) (hf : InsertedFrame s t) : ChainsTo (s.scan + 1) t := by
  rw [hf]
  refine ⟨fun k => ?_, fun q hq hw => ?_⟩
  · rw [Ref.lastBefore_succ, ← h.head k]
    simp only [headRead, Sparse.look_put, eq_comm]
  · obtain rfl | hq := Nat.eq_or_lt_of_le (Nat.le_of_lt_succ hq)
    · exact (Sparse.look_put_same ..).trans (congrArg some (h.head _))
    · exact (Sparse.look_put_ne _ _ (mod_window_ne hq hw)).trans (h.prev q hq (Nat.le_of_succ_le hw))

theorem finderStep_chainsTo {s : State} (h : ChainsTo s.scan s) (b : Bool) :
    ChainsTo (s.scan + 1) (finderStep b s) :=
  h.insert (finderStep_inserts b s)

theorem matchEmitted_chainsTo {n : Nat} {s : State} (h : ChainsTo n s) : ChainsTo n (matchEmitted s) := by
  rw [matchEmitted, appendAll_eq]
  exact ⟨h.head, h.prev⟩

/-- Every position before the last byte is inserted, covered or not (42 R131, R132). -/
theorem scanned_chainsTo {s : State} (hs : s.scan + 1 < s.srcLen) (h : ChainsTo s.scan s) :
    ChainsTo (s.scan + 1) (scanned s) := by
  rw [scanned, if_pos hs]
  split
  · split
    · exact matchEmitted_chainsTo (finderStep_chainsTo h true)
    · exact finderStep_chainsTo h true
  · exact finderStep_chainsTo h false

theorem position_chainsOk {s : State} (hs : s.scan < s.srcLen) (h : ChainsOk s) :
    ChainsOk (endPosition (scanned s)) := by
  have hto := h.chainsTo_scan hs
  have hins : inserted (endPosition (scanned s)) = min (s.scan + 1) (s.srcLen - 1) := by
    rw [scanned_frame s]
    rfl
  rw [chainsOk_iff, hins]
  by_cases h1 : s.scan + 1 < s.srcLen
  · have hc := scanned_chainsTo h1 hto
    rw [Nat.min_eq_left (Nat.le_sub_one_of_lt h1)]
    exact ⟨hc.head, hc.prev⟩
  · rw [scanned, if_neg h1, show min (s.scan + 1) (s.srcLen - 1) = s.scan by omega]
    exact ⟨hto.head, hto.prev⟩

/-- Settles O45: a step that leaves COMPRESS running is a position, and every position keeps the chains. -/
theorem chainsKept : Obligations.ChainsKept := by
  intro s t he hc hs ho
  rw [step_encoding he, compressStep_eq] at hs
  split at hs
  · cases hs
    exact position_chainsOk ‹_› hc
  · cases hs
    cases ho

end Sys2Proof.Machine

/-! SUPPORT. The walk along a chain (41 R113, R117, R121, R124): it examines the earlier occurrences of the key, newest
first, and every link it reads has been written by the operation: O46 and O47. -/

namespace Sys2Proof.Machine

/-! ## One candidate -/

/-- The better of a best match and candidate `c` at `p`, the best match on ties. -/
def better (src : Memory) (p cap : Nat) (b : Nat × Nat) (c : Nat) : Nat × Nat :=
  if prefixLen src p c cap > b.1 then (prefixLen src p c cap, p - c) else b

/-- A candidate examined: hop counted, length measured, the better match kept, link followed (41 R113, R117). -/
theorem examine_eq (c : Nat) (s : State) :
    examine c s = { s with
      cand := prevRead s (c % window s)
      hops := s.hops + 1
      curLen := prefixLen s.src s.scan c (matchCap s)
      bestLen := (better s.src s.scan (matchCap s) (s.bestLen, s.bestOff) c).1
      bestOff := (better s.src s.scan (matchCap s) (s.bestLen, s.bestOff) c).2 } := by
  rw [examine, updateBest, better]
  split <;> rfl

theorem inWindow_iff (s : State) (c : Nat) : inWindow s c = true ↔ c < s.scan ∧ s.scan - c < window s := by
  simp only [inWindow, Bool.and_eq_true, decide_eq_true_eq]

theorem ChainsTo.examine_chainsTo {s : State} (h : ChainsTo (s.scan + 1) s) (c : Nat) :
    ChainsTo ((examine c s).scan + 1) (examine c s) := by
  rw [examine_eq]
  exact ⟨h.head, h.prev⟩

/-- With the position inserted, the link of every candidate inside the window has been written (41 R121). -/
theorem ChainsTo.look_prev {s : State} (h : ChainsTo (s.scan + 1) s) {c : Nat} (hc : inWindow s c = true) :
    Sparse.look s.prev (c % window s) = some (Ref.lastBefore s.src (keyAt s.src c) c) := by
  obtain ⟨hlt, hw⟩ := (inWindow_iff s c).1 hc
  exact h.prev c (Nat.lt_succ_of_lt hlt) (by omega)

/-! ## The candidates in order (41 R124) -/

/-- The positions below `n` with key `k`, newest first. -/
def occurrencesBelow (src : Memory) (k n : Nat) : List Nat :=
  (List.range n).reverse.filter fun c => keyAt src c = k

theorem occurrencesBelow_succ (src : Memory) (k n : Nat) :
    occurrencesBelow src k (n + 1) =
      if keyAt src n = k then n :: occurrencesBelow src k n else occurrencesBelow src k n := by
  simp only [occurrencesBelow, List.range_succ, List.reverse_append, List.reverse_singleton, List.singleton_append,
    List.filter_cons, decide_eq_true_eq]

theorem occurrencesBelow_of_none {src : Memory} {k n : Nat} (h : Ref.lastBefore src k n = none) :
    occurrencesBelow src k n = [] := by
  induction n with
  | zero => rfl
  | succ n ih =>
    rw [Ref.lastBefore_succ] at h
    rw [occurrencesBelow_succ]
    split at h
    · cases h
    · rw [if_neg ‹_›, ih h]

/-- The occurrences are the newest one and the occurrences before it: the chain of links (41 R120). -/
theorem occurrencesBelow_of_some {src : Memory} {k n c : Nat} (h : Ref.lastBefore src k n = some c) :
    occurrencesBelow src k n = c :: occurrencesBelow src k c := by
  induction n with
  | zero => cases h
  | succ n ih =>
    rw [Ref.lastBefore_succ] at h
    rw [occurrencesBelow_succ]
    split at h
    · cases h
      rw [if_pos ‹_›]
    · rw [if_neg ‹_›, ih h]

/-! ## The best match (41 R117) -/

/-- The registers hold the best match `b`; `bestOff` means nothing while there is none (41 R117, R118). -/
def HasBest (b : Nat × Nat) (s : State) : Prop := s.bestLen = b.1 ∧ (0 < s.bestLen → s.bestOff = b.2)

theorem examine_hasBest {b : Nat × Nat} {s : State} (h : HasBest b s) (c : Nat) :
    HasBest (better s.src s.scan (matchCap s) b c) (examine c s) := by
  obtain ⟨hlen, hoff⟩ := h
  rw [examine_eq]
  unfold better
  rw [hlen]
  split
  · exact ⟨rfl, fun _ => rfl⟩
  · exact ⟨rfl, hlen ▸ hoff⟩

/-! ## The walk without tables -/

/-- The best match of the first `fuel` candidates of `cs` inside the window, starting from `b` (41 R124). -/
def bestOfWalk (s : State) (fuel : Nat) (cs : List Nat) (b : Nat × Nat) : Nat × Nat :=
  ((cs.takeWhile fun c => decide (s.scan - c < window s)).take fuel).foldl (better s.src s.scan (matchCap s)) b

theorem bestOfWalk_cons_of_lt {s : State} {c : Nat} (h : s.scan - c < window s) (fuel : Nat) (cs : List Nat)
    (b : Nat × Nat) :
    bestOfWalk s (fuel + 1) (c :: cs) b = bestOfWalk s fuel cs (better s.src s.scan (matchCap s) b c) := by
  simp only [bestOfWalk, List.takeWhile_cons, h, decide_true, if_true, List.take_succ_cons, List.foldl_cons]

theorem bestOfWalk_cons_of_not_lt {s : State} {c : Nat} (h : ¬s.scan - c < window s) (fuel : Nat) (cs : List Nat)
    (b : Nat × Nat) : bestOfWalk s fuel (c :: cs) b = b := by
  simp only [bestOfWalk, List.takeWhile_cons, h, decide_false, Bool.false_eq_true, if_false, List.take_nil,
    List.foldl_nil]

/-- From a candidate that is the newest occurrence below `n`, the walk examines the occurrences below `n` in order, up
to the window's end and the hops left: the link it follows is the next of them (41 R113, R120). -/
theorem walk_hasBest {fuel n k : Nat} {b : Nat × Nat} {s : State} (hch : ChainsTo (s.scan + 1) s)
    (hcand : s.cand = Ref.lastBefore s.src k n) (hn : n ≤ s.scan) (hhops : s.hops + fuel = s.maxHops)
    (hb : HasBest b s) : HasBest (bestOfWalk s fuel (occurrencesBelow s.src k n) b) (walk fuel s) := by
  induction fuel generalizing s n b with
  | zero =>
    rw [bestOfWalk, List.take_zero]
    exact hb
  | succ fuel ih =>
    rw [walk]
    cases hl : Ref.lastBefore s.src k n with
    | none =>
      rw [hcand, hl, occurrencesBelow_of_none hl]
      exact hb
    | some c =>
      obtain ⟨hcn, rfl⟩ := Ref.lastBefore_eq_some hl
      have hlt : c < s.scan := Nat.lt_of_lt_of_le hcn hn
      rw [hcand, hl, occurrencesBelow_of_some hl]
      dsimp only
      rw [decide_eq_true (show s.hops < s.maxHops by omega), Bool.and_true]
      by_cases hw : s.scan - c < window s
      · have hin : inWindow s c = true := (inWindow_iff s c).2 ⟨hlt, hw⟩
        have hnext : prevRead s (c % window s) = Ref.lastBefore s.src (keyAt s.src c) c := by
          rw [prevRead, hch.look_prev hin, Option.getD_some]
        have hch' := hch.examine_chainsTo c
        have hb' := examine_hasBest hb c
        rw [if_pos hin, bestOfWalk_cons_of_lt hw]
        rw [examine_eq] at hch' hb' ⊢
        exact ih hch' hnext (Nat.le_of_lt hlt) (by simp only; omega) hb'
      · rw [if_neg fun h => hw ((inWindow_iff s c).1 h).2, bestOfWalk_cons_of_not_lt hw]
        exact hb

/-- The state in which the walk of a search starts: the position inserted, no best match, no hop (41 R113). -/
def walkStart (s : State) : State :=
  { s with
    head := Sparse.put s.head (keyAt s.src s.scan) s.scan
    prev := Sparse.put s.prev (s.scan % window s) (headRead s (keyAt s.src s.scan))
    key := keyAt s.src s.scan, cand := headRead s (keyAt s.src s.scan), hops := 0, bestLen := 0 }

theorem finderStep_true (s : State) : finderStep true s = walk s.maxHops (walkStart s) := by
  rw [finderStep, if_pos rfl, search]
  rfl

theorem walkStart_chainsTo {s : State} (h : ChainsTo s.scan s) : ChainsTo ((walkStart s).scan + 1) (walkStart s) :=
  h.insert rfl

theorem find_eq_bestOfWalk (s : State) :
    Ref.find s.src s.srcLen (window s) s.maxHops s.scan =
      bestOfWalk (walkStart s) s.maxHops (occurrencesBelow s.src (keyAt s.src s.scan) s.scan) (0, 0) := rfl

/-- With the chains in order the finder's result is the best match of the table-free description (41 R124). -/
theorem finderStep_hasBest {s : State} (h : ChainsTo s.scan s) :
    HasBest (Ref.find s.src s.srcLen (window s) s.maxHops s.scan) (finderStep true s) := by
  have hcand : (walkStart s).cand = Ref.lastBefore (walkStart s).src (keyAt s.src s.scan) s.scan := h.head _
  have hhops : (walkStart s).hops + s.maxHops = (walkStart s).maxHops := Nat.zero_add _
  have hbest : HasBest (0, 0) (walkStart s) := ⟨rfl, fun h => absurd h (Nat.lt_irrefl 0)⟩
  rw [find_eq_bestOfWalk, finderStep_true]
  exact walk_hasBest (walkStart_chainsTo h) hcand (Nat.le_refl _) hhops hbest

/-- Settles O46: the walk starts at HEAD's entry, the newest occurrence of the key, and `walk_hasBest` follows it. -/
theorem searchIsTableFree : Obligations.SearchIsTableFree :=
  fun _ hs hc => finderStep_hasBest (hc.chainsTo_scan (Nat.lt_of_succ_lt hs))

/-! ## What PREV held at the start (41 R121, 93 U2) -/

/-- The machine whose PREV held free table `d` when the operation started. -/
def withPrevInit (d : Nat) (s : State) : State := { s with prevInit := d }

theorem prevRead_withPrevInit {s : State} {i : Nat} {e : Option Nat} (h : Sparse.look s.prev i = some e) (d : Nat) :
    prevRead (withPrevInit d s) i = prevRead s i := by
  have hd : Sparse.look (withPrevInit d s).prev i = some e := h
  rw [prevRead, prevRead, h, hd]
  rfl

/-- Examining a candidate whose link has been written does not depend on the initial PREV. -/
theorem examine_withPrevInit {s : State} {c : Nat} {e : Option Nat} (h : Sparse.look s.prev (c % window s) = some e)
    (d : Nat) : examine c (withPrevInit d s) = withPrevInit d (examine c s) := by
  have hl : prevRead (withPrevInit d s) (c % window (withPrevInit d s)) = prevRead s (c % window s) :=
    prevRead_withPrevInit h d
  rw [examine_eq, examine_eq, hl]
  rfl

/-- The walk reads links inside the window only, so it does not depend on the initial PREV. -/
theorem walk_withPrevInit {s : State} (h : ChainsTo (s.scan + 1) s) (d fuel : Nat) :
    walk fuel (withPrevInit d s) = withPrevInit d (walk fuel s) := by
  induction fuel generalizing s with
  | zero => rfl
  | succ fuel ih =>
    have hcand : (withPrevInit d s).cand = s.cand := rfl
    have hcond (c : Nat) : (inWindow (withPrevInit d s) c &&
        decide ((withPrevInit d s).hops < (withPrevInit d s).maxHops)) =
      (inWindow s c && decide (s.hops < s.maxHops)) := rfl
    rw [walk, walk, hcand]
    split
    · rfl
    · rename_i c _
      rw [hcond]
      split
      · rename_i hc
        rw [examine_withPrevInit (h.look_prev (Bool.and_eq_true_iff.1 hc).1)]
        exact ih (h.examine_chainsTo c)
      · rfl

theorem finderStep_withPrevInit {s : State} (h : ChainsTo s.scan s) (d : Nat) (b : Bool) :
    finderStep b (withPrevInit d s) = withPrevInit d (finderStep b s) := by
  cases b with
  | false => rfl
  | true =>
    have hstart : walkStart (withPrevInit d s) = withPrevInit d (walkStart s) := rfl
    rw [finderStep_true, finderStep_true, hstart]
    exact walk_withPrevInit (walkStart_chainsTo h) d s.maxHops

theorem matchEmitted_withPrevInit (d : Nat) (s : State) :
    matchEmitted (withPrevInit d s) = withPrevInit d (matchEmitted s) := by
  rw [matchEmitted, matchEmitted, appendAll_eq, appendAll_eq]
  rfl

theorem scanned_withPrevInit {s : State} (h : ChainsTo s.scan s) (d : Nat) :
    scanned (withPrevInit d s) = withPrevInit d (scanned s) := by
  rw [scanned, scanned, finderStep_withPrevInit h, finderStep_withPrevInit h, matchEmitted_withPrevInit]
  simp only [apply_ite (withPrevInit d)]
  rfl

/-- With the whole input emitted, the end of the stream is a Terminal without literals (42 R145, R146). -/
theorem finishStream_past {s : State} (h : s.srcLen ≤ s.flushed) :
    finishStream s = { appendAll (encode (.terminal 0)) s with lit := 0 } := by
  rw [finishStream, flush_past h, emit_eq, appendAll_eq, appendAll_eq]
  rfl

theorem finishStream_withPrevInit (d : Nat) (s : State) :
    finishStream (withPrevInit d s) = withPrevInit d (finishStream s) := by
  by_cases hf : s.flushed ≤ s.srcLen
  · rw [finishStream_eq hf, finishStream_eq (s := withPrevInit d s) hf, appendAll_eq, appendAll_eq]
    rfl
  · have hp := Nat.le_of_not_le hf
    rw [finishStream_past hp, finishStream_past (s := withPrevInit d s) hp, appendAll_eq, appendAll_eq]
    rfl

/-- Settles O47: the walk is the only reader of PREV, and with the chains in order it reads written entries only. -/
theorem initialPrevNeverRead : Obligations.InitialPrevNeverRead := by
  intro s t d he hc hs
  change step (withPrevInit d s) = .next (withPrevInit d t)
  have he' : Encoding (withPrevInit d s) := he
  rw [step_encoding he, compressStep_eq] at hs
  rw [step_encoding he', compressStep_eq, ← Host.Outcome.next.inj hs]
  by_cases hscan : s.scan < s.srcLen
  · rw [if_pos hscan, if_pos (by exact hscan), scanned_withPrevInit (hc.chainsTo_scan hscan)]
    rfl
  · rw [if_neg hscan, if_neg (by exact hscan), finishStream_withPrevInit]
    rfl

end Sys2Proof.Machine

/-! SUPPORT. The token encoder's steps (42 R131 to R152): the policy and the shapes, what a search finds, what a flush,
a position and the end step append, how long the output gets, and that no step is stuck: O30, O43, O48 to O55. -/

namespace Sys2Proof.Machine

/-! ## The acceptance policy and the shapes (42 R135, R140) -/

/-- Settles O48: by the arithmetic of the policy's branches (`accept_iff`). -/
theorem acceptancePolicy : Obligations.AcceptancePolicy := accept_iff

theorem select_eq_short {len off : Nat} (W lit : Nat) (h : len ≤ 10 ∧ off ≤ 1024) :
    select W lit len off = some (.shortMatch lit len off) := if_pos h

theorem select_eq_medium {len off : Nat} (W lit : Nat) (h₁ : ¬(len ≤ 10 ∧ off ≤ 1024)) (h₂ : len ≤ 67 ∧ off ≤ 16384) :
    select W lit len off = some (.mediumMatch lit len off) := (if_neg h₁).trans (if_pos h₂)

theorem select_eq_long {W len off : Nat} (lit : Nat) (h₁ : ¬(len ≤ 10 ∧ off ≤ 1024))
    (h₂ : ¬(len ≤ 67 ∧ off ≤ 16384)) (h₃ : len ≤ 1028 ∧ off < W) :
    select W lit len off = some (.longMatch lit len off) := (if_neg h₁).trans ((if_neg h₂).trans (if_pos h₃))

/-- Settles O49: the policy refuses what a larger shape could not hold, a length of 3 past offset 1024 and of 4 past
16384, so each shape tried in order holds the fields it is given. -/
theorem selectedShapeFits : Obligations.SelectedShapeFits := by
  intro W lit len off hW hlit ha hlen hoff hoffW
  have hacc := (accept_iff len off).1 ha
  by_cases h₁ : len ≤ 10 ∧ off ≤ 1024
  · refine ⟨_, select_eq_short W lit h₁, ?_, rfl, fun _ => rfl, fun h => absurd h₁ h, fun h => absurd h₁ h⟩
    rw [Instr.wf_shortMatch]
    omega
  · by_cases h₂ : len ≤ 67 ∧ off ≤ 16384
    · refine ⟨_, select_eq_medium W lit h₁ h₂, ?_, rfl, fun h => absurd h h₁, fun _ _ => rfl, fun _ h => absurd h₂ h⟩
      rw [Instr.wf_mediumMatch]
      omega
    · refine ⟨_, select_eq_long lit h₁ h₂ ⟨hlen, hoffW⟩, ?_, rfl, fun h => absurd h h₁, fun _ h => absurd h h₂,
        fun _ _ => rfl⟩
      rw [Instr.wf_longMatch]
      omega

/-! ## What a search finds (41 R113, 42 R149 c) -/

/-- The best match repeats the input at its distance (42 R149 c). -/
def BestRepeats (s : State) : Prop :=
  ∀ k, k < s.bestLen → Memory.read s.src (s.scan + k) = Memory.read s.src (s.scan - s.bestOff + k)

theorem examine_repeats {c : Nat} {s : State} (hw : inWindow s c = true) (h : BestRepeats s) :
    BestRepeats (examine c s) := by
  have hc : s.scan - (s.scan - c) = c := Nat.sub_sub_self (Nat.le_of_lt ((inWindow_iff s c).1 hw).1)
  rw [examine_eq]
  unfold better
  split
  · intro k hk
    dsimp only at hk ⊢
    rw [hc]
    exact (read_eq_of_lt_prefixLen hk).symm
  · exact h

theorem walk_repeats {fuel : Nat} {s : State} (h : BestRepeats s) : BestRepeats (walk fuel s) := by
  induction fuel generalizing s with
  | zero => exact h
  | succ fuel ih =>
    rw [walk]
    split
    · exact h
    · split
      · exact ih (examine_repeats (Bool.and_eq_true_iff.1 ‹_›).1 h)
      · exact h

theorem search_repeats (s : State) : BestRepeats (search s) :=
  walk_repeats fun k hk => absurd hk (Nat.not_lt_zero k)

theorem finderStep_repeats (s : State) : BestRepeats (finderStep true s) := search_repeats _

/-- Settles O43: the bounds are `search_best`, the repetition `search_repeats`, read in the state before the search. -/
theorem matchFoundIsReal : Obligations.MatchFoundIsReal := by
  intro s
  have hbest := search_best s
  have hrep := search_repeats s
  obtain ⟨_, _, _, _, _, hf⟩ := search_frame s
  rw [hf] at hbest hrep ⊢
  obtain ⟨hcap, hoff⟩ := hbest
  refine ⟨hcap.trans (Nat.min_le_left ..), hcap.trans (Nat.min_le_right ..), fun hpos => ?_⟩
  obtain ⟨h1, h2, h3⟩ := hoff hpos
  exact ⟨h1, h2, h3, hrep⟩

/-! ## The lengths of a flush's RawRuns (42 R138) -/

theorem Ref.flushLengths_succ (fuel gap : Nat) :
    Ref.flushLengths (fuel + 1) gap =
      if gap ≥ 4 then rawRunLength gap :: Ref.flushLengths fuel (gap - rawRunLength gap) else [] := rfl

theorem Ref.flushLengths_range {fuel gap l : Nat} (h : l ∈ Ref.flushLengths fuel gap) :
    4 ≤ l ∧ l ≤ 112 ∧ l % 4 = 0 := by
  induction fuel generalizing gap with
  | zero => cases h
  | succ fuel ih =>
    rw [Ref.flushLengths_succ] at h
    split at h
    · obtain rfl | h := List.mem_cons.1 h
      · have hr := rawRunLength_range ‹_›
        omega
      · exact ih h
    · cases h

/-- The runs leave the 0 to 3 bytes that no RawRun covers. -/
theorem Ref.flushLengths_sum {fuel gap : Nat} (h : gap ≤ fuel) : (Ref.flushLengths fuel gap).sum = gap - gap % 4 := by
  induction fuel generalizing gap with
  | zero => rw [Nat.le_zero.1 h]; rfl
  | succ fuel ih =>
    rw [Ref.flushLengths_succ]
    split
    · have hr := rawRunLength_range ‹_›
      have hm := rawRunLength_mod ‹_›
      rw [List.sum_cons, ih (by omega)]
      omega
    · rw [List.sum_nil]
      omega

/-- A run that another one follows was cut at the largest length. -/
theorem Ref.flushLengths_dropLast {fuel gap l : Nat} (h : l ∈ (Ref.flushLengths fuel gap).dropLast) : l = 112 := by
  induction fuel generalizing gap with
  | zero => cases h
  | succ fuel ih =>
    rw [Ref.flushLengths_succ] at h
    split at h
    · cases hrest : Ref.flushLengths fuel (gap - rawRunLength gap) with
      | nil =>
        rw [hrest] at h
        cases h
      | cons r rs =>
        rw [hrest, List.dropLast_cons_of_ne_nil (List.cons_ne_nil r rs), ← hrest] at h
        obtain rfl | h := List.mem_cons.1 h
        · have hgap : 4 ≤ gap - rawRunLength gap := by
            by_contra hlt
            cases fuel with
            | zero => cases hrest
            | succ fuel =>
              rw [Ref.flushLengths_succ, if_neg hlt] at hrest
              cases hrest
          simp only [rawRunLength, Config.rawMax] at hgap ⊢
          omega
        · exact ih h
    · cases h

/-- Settles O50: the runs are those of `Ref.flushLengths`, appended as `flush_eq` says. -/
theorem flushCoversGap : Obligations.FlushCoversGap := by
  intro s upto hu
  have hfl : (flush upto s).flushed = upto - (upto - s.flushed) % 4 := by rw [flush_eq hu]
  have hlit : (flush upto s).lit = (upto - s.flushed) % 4 := by rw [flush_eq hu]
  refine ⟨Ref.flushLengths (upto - s.flushed) (upto - s.flushed), fun _ => Ref.flushLengths_range,
    fun _ => Ref.flushLengths_dropLast, ?_, ?_, ?_, ?_, ?_⟩
  · rw [hfl, Ref.flushLengths_sum (Nat.le_refl _)]
    omega
  · omega
  · omega
  · omega
  · rw [hfl, hlit]
    exact flush_eq hu

/-! ## One position (42 R131 to R137) -/

theorem step_position {s : State} (h : Encoding s) (hs : s.scan < s.srcLen) :
    step s = .next (endPosition (scanned s)) := by
  rw [step_encoding h, compressStep_eq, if_pos hs]

theorem position_frame (s : State) : PositionFrame s (endPosition (scanned s)) := by
  rw [scanned_frame s]
  rfl

theorem scanned_last {s : State} (h : s.srcLen ≤ s.scan + 1) : scanned s = s := if_neg (Nat.not_lt.2 h)

theorem scanned_covered {s : State} (h : s.scan + 1 < s.srcLen) (hf : s.scan < s.flushed) :
    scanned s = finderStep false s := (if_pos h).trans (if_neg (Nat.not_le.2 hf))

theorem scanned_accepted {s : State} (h : s.scan + 1 < s.srcLen) (hf : s.flushed ≤ s.scan)
    (ha : accept (finderStep true s).bestLen (finderStep true s).bestOff = true) :
    scanned s = matchEmitted (finderStep true s) := (if_pos h).trans ((if_pos hf).trans (if_pos ha))

theorem scanned_rejected {s : State} (h : s.scan + 1 < s.srcLen) (hf : s.flushed ≤ s.scan)
    (ha : accept (finderStep true s).bestLen (finderStep true s).bestOff = false) :
    scanned s = finderStep true s :=
  (if_pos h).trans ((if_pos hf).trans (if_neg (by rw [ha]; exact Bool.false_ne_true)))

/-- Settles O52: the last byte's position is evaluated without a change. -/
theorem lastByteOnlyAdvances : Obligations.LastByteOnlyAdvances := by
  intro s he hs
  have hframe := position_frame s
  rw [scanned_last (Nat.le_of_eq hs.symm)] at hframe
  refine ⟨_, step_position he (by omega), ?_⟩
  rw [scanned_last (Nat.le_of_eq hs.symm)]
  exact ⟨rfl, rfl, rfl, rfl, rfl, rfl, hframe⟩

theorem finderStep_dlen (b : Bool) (s : State) : (finderStep b s).dlen = s.dlen := by
  rw [finderStep_inserts b s]

theorem finderStep_dst (b : Bool) (s : State) : (finderStep b s).dst = s.dst := by
  rw [finderStep_inserts b s]

theorem InsertedFrame.headRead_eq {s t : State} (h : InsertedFrame s t) (k : Nat) :
    headRead t k = if k = keyAt s.src s.scan then some s.scan else headRead s k := by
  rw [h]
  exact Sparse.look_put ..

theorem InsertedFrame.prevRead_eq {s t : State} (h : InsertedFrame s t) (i : Nat) :
    prevRead t i = if i = s.scan % window s then headRead s (keyAt s.src s.scan) else prevRead s i := by
  rw [h]
  exact prevRead_prevWrite _ _ s i

/-- Settles O51: a covered position is the insertion, and each table reads as after its one write. -/
theorem coveredPositionOnlyInserts : Obligations.CoveredPositionOnlyInserts := by
  intro s he hs hf
  have hframe := position_frame s
  have hins := finderStep_inserts false s
  rw [scanned_covered hs hf] at hframe
  refine ⟨_, step_position he (Nat.lt_of_succ_lt hs), ?_⟩
  rw [scanned_covered hs hf]
  exact ⟨congrArg (· + 1) (finderStep_scan false s), finderStep_flushed false s, finderStep_dlen false s,
    finderStep_dst false s, hins.headRead_eq, hins.prevRead_eq, hframe⟩

/-- The bytes of an accepted match after the finder's step are those of the position before it. -/
def matchAt (s : State) : List Byte :=
  Ref.matchBytes s.src (window s) s.flushed s.scan (finderStep true s).bestLen (finderStep true s).bestOff

theorem matchEmitted_finderStep (s : State) :
    matchEmitted (finderStep true s) = { finderStep true s with
      dst := Memory.writeBytes s.dst s.dlen (matchAt s)
      dlen := s.dlen + (matchAt s).length
      flushed := s.scan + (finderStep true s).bestLen
      lit := (s.scan - s.flushed) % 4 } := by
  have hb : Ref.matchBytes (finderStep true s).src (window (finderStep true s)) (finderStep true s).flushed
      (finderStep true s).scan (finderStep true s).bestLen (finderStep true s).bestOff = matchAt s := by
    unfold matchAt
    rw [finderStep_inserts true s]
    rfl
  rw [matchEmitted, appendAll_eq, hb, finderStep_inserts true s]

/-- Settles O53: the position is the finder's step, and the emission of its match if the policy accepts it. -/
theorem positionEmitsAcceptedMatch : Obligations.PositionEmitsAcceptedMatch := by
  intro s he hs hf u
  refine ⟨_, step_position he (Nat.lt_of_succ_lt hs), ?_⟩
  have hframe := position_frame s
  cases ha : accept u.bestLen u.bestOff with
  | true =>
    have hsc := scanned_accepted hs hf ha
    rw [hsc, matchEmitted_finderStep] at hframe ⊢
    exact ⟨congrArg (· + 1) (finderStep_scan true s), rfl, rfl, hframe, fun _ => ⟨rfl, rfl, rfl⟩, nofun⟩
  | false =>
    have hsc := scanned_rejected hs hf ha
    rw [hsc] at hframe ⊢
    exact ⟨congrArg (· + 1) (finderStep_scan true s), rfl, rfl, hframe, nofun,
      fun _ => ⟨finderStep_flushed true s, finderStep_dlen true s, finderStep_dst true s⟩⟩

/-! ## The end of the stream (42 R145 to R152) -/

theorem step_finish {s : State} (h : Encoding s) (hs : s.srcLen ≤ s.scan) :
    step s = .next (complete (dropFinderTemps (finishStream s))) := by
  rw [step_encoding h, compressStep_eq, if_neg (Nat.not_lt.2 hs)]

/-- Settles O54: the end step appends the tail of the stream (`finishStream_eq`) and completes. -/
theorem streamEndsWithTerminal : Obligations.StreamEndsWithTerminal := by
  intro s he hs hf
  refine ⟨_, step_finish he (Nat.le_of_eq hs.symm), ?_⟩
  rw [finishStream_eq hf, appendAll_eq]
  exact ⟨rfl, rfl, rfl, rfl, rfl, rfl, rfl, rfl, rfl⟩

/-- The tail is the gap's RawRuns, the Terminal's byte and its 0 to 3 literal bytes. -/
theorem tail_length (src : Memory) {n F g : Nat} (hg : g = 4 * ((n - F) / 4)) :
    (Ref.tail src n F).length = g + (g + 111) / 112 + 1 + (n - F) % 4 := by
  simp only [Ref.tail, List.length_append, flushBytes_length src hg, Memory.slice_length, encode_length]
  rfl

/-- The tail keeps the output of an encoder within its bound at 5 + n + n/112 + 2 bytes (42 R152). -/
theorem finishStream_dlen_le {s : State} (h : EncoderOk s) :
    (finishStream s).dlen ≤ 5 + s.srcLen + s.srcLen / 112 + 2 := by
  have hf := h.flushed
  have hb := h.bound
  simp only [Config.hdrLen, Config.rawMax] at hb
  rw [finishStream_eq hf, appendAll_eq]
  dsimp only
  rw [tail_length s.src rfl]
  omega

/-- Settles O55: the step that ends COMPRESS is the end step, from within the encoder's bounds. -/
theorem outputLengthBound : Obligations.OutputLengthBound := by
  intro s t hinv he hs ho
  by_cases hscan : s.scan < s.srcLen
  · cases (step_position he hscan).symm.trans hs
    exact nomatch (position_encoding he).1.2.symm.trans ho
  · cases (step_finish he (Nat.le_of_not_lt hscan)).symm.trans hs
    exact finishStream_dlen_le (hinv.encoder he.2)

/-! ## No step is stuck (42 R151) -/

theorem startCompress_ne_fault (s : State) (f : Fault) : startCompress s ≠ .fault f := by
  rw [startCompress_eq]
  split <;> simp

theorem startDecompress_ne_fault (s : State) (f : Fault) : startDecompress s ≠ .fault f := by
  obtain h | h | ⟨-, h⟩ := startDecompress_cases s <;> simp [h]

theorem hostStep_ne_fault (a : HostAct) (s : State) (f : Fault) : hostStep a s ≠ .fault f := by
  obtain ⟨r, hr⟩ | ⟨-, c, -, -, ⟨_, _, -, hc⟩ | ⟨-, hd⟩⟩ | ⟨-, hn⟩ := hostStep_cases a s
  · simp [hr]
  · rw [hc]
    exact startCompress_ne_fault _ f
  · rw [hd]
    exact startDecompress_ne_fault _ f
  · simp [hn]

theorem decompressStep_ne_fault {s : State} (ho : s.op = .decompress) (f : Fault) : decompressStep s ≠ .fault f := by
  obtain ⟨t, h, -⟩ | h | ⟨h, -⟩ := decompressStep_cases ho <;> simp [h]

/-- Settles O30: a position always completes (`compressStep_eq`), and no other kind of step has a fault. -/
theorem stepNeverFaults : Obligations.StepNeverFaults := by
  intro s f
  rw [step]
  split
  · exact hostStep_ne_fault _ s f
  · split
    · simp
    · simp [compressStep_eq]
    · exact decompressStep_ne_fault ‹_› f

end Sys2Proof.Machine

/-! SUPPORT. COMPRESS as one function (42 R148): every position appends what `Ref.position` gives, and the end step the
tail: O57. -/

namespace Sys2Proof.Machine

/-! ## The output as a byte list -/

/-- Bytes written at `a` lengthen a slice that ends there. -/
theorem Memory.slice_writeBytes_append (m : Memory) {b a : Nat} (vs : List Byte) (h : b ≤ a) :
    Memory.slice (Memory.writeBytes m a vs) b (a - b + vs.length) = Memory.slice m b (a - b) ++ vs := by
  have hbelow : Memory.slice (Memory.writeBytes m a vs) b (a - b) = Memory.slice m b (a - b) :=
    Memory.slice_congr fun i hi => (Memory.read_writeBytes ..).trans (if_neg (by omega))
  rw [Memory.slice_add, hbelow, Nat.add_sub_cancel' h, Memory.slice_writeBytes]

theorem compressed_appendAll (vs : List Byte) (s : State) : compressed (appendAll vs s) = compressed s ++ vs := by
  rw [appendAll_eq]
  exact Memory.slice_writeBytes_append s.dst vs (Nat.zero_le _)

theorem compressed_finderStep (b : Bool) (s : State) : compressed (finderStep b s) = compressed s := by
  rw [finderStep_inserts b s]
  rfl

/-- The end step appends the tail of the stream (42 R145, R146). -/
theorem compressed_finishStream {s : State} (hf : s.flushed ≤ s.srcLen) :
    compressed (finishStream s) = compressed s ++ Ref.tail s.src s.srcLen s.flushed := by
  rw [finishStream_eq hf]
  exact compressed_appendAll _ s

theorem compressed_matchEmitted (s : State) :
    compressed (matchEmitted (finderStep true s)) = compressed s ++ matchAt s := by
  rw [matchEmitted_finderStep]
  exact Memory.slice_writeBytes_append s.dst _ (Nat.zero_le _)

/-! ## A position of the one-function form -/

/-- A position of the one-function form in terms of the acceptance policy (42 R135, R148). -/
theorem Ref.position_eq (src : Memory) (n W maxHops p flushed : Nat) :
    Ref.position src n W maxHops p flushed =
      if p + 1 < n ∧ flushed ≤ p then
        if accept (Ref.find src n W maxHops p).1 (Ref.find src n W maxHops p).2 then
          (p + (Ref.find src n W maxHops p).1,
            Ref.matchBytes src W flushed p (Ref.find src n W maxHops p).1 (Ref.find src n W maxHops p).2)
        else (flushed, [])
      else (flushed, []) := by
  have hacc (len off : Nat) :
      (len ≥ 5 ∨ (len = 4 ∧ off ≤ 16384) ∨ (len = 3 ∧ off ≤ 1024)) ↔ accept len off = true := by
    rw [accept_iff]
    omega
  simp only [Ref.position, hacc, ge_iff_le]

theorem Ref.scanLoop_succ (src : Memory) (n W maxHops k p flushed : Nat) :
    Ref.scanLoop src n W maxHops (k + 1) p flushed =
      ((Ref.scanLoop src n W maxHops k (p + 1) (Ref.position src n W maxHops p flushed).1).1,
        (Ref.position src n W maxHops p flushed).2 ++
          (Ref.scanLoop src n W maxHops k (p + 1) (Ref.position src n W maxHops p flushed).1).2) := rfl

/-- The position at `scan` in the one-function form. -/
def refPosition (s : State) : Nat × List Byte :=
  Ref.position s.src s.srcLen (window s) s.maxHops s.scan s.flushed

theorem HasBest.accept_eq {b : Nat × Nat} {s : State} (h : HasBest b s) :
    accept s.bestLen s.bestOff = accept b.1 b.2 := by
  obtain ⟨hlen, hoff⟩ := h
  obtain hz | hpos := Nat.eq_zero_or_pos s.bestLen
  · rw [← hlen, hz]
    rfl
  · rw [← hlen, hoff hpos]

/-- With the chains in order, a position moves `flushed` and appends as the one-function form says (42 R148, 41
R124). -/
theorem scanned_eq_refPosition {s : State} (hch : ChainsTo s.scan s) :
    (scanned s).flushed = (refPosition s).1 ∧ compressed (scanned s) = compressed s ++ (refPosition s).2 := by
  have hb := finderStep_hasBest hch
  have hacc := hb.accept_eq
  rw [refPosition, Ref.position_eq]
  by_cases hs : s.scan + 1 < s.srcLen
  · by_cases hf : s.flushed ≤ s.scan
    · rw [if_pos ⟨hs, hf⟩, ← hacc]
      cases ha : accept (finderStep true s).bestLen (finderStep true s).bestOff with
      | true =>
        have hmatch : matchAt s = Ref.matchBytes s.src (window s) s.flushed s.scan
            (Ref.find s.src s.srcLen (window s) s.maxHops s.scan).1
            (Ref.find s.src s.srcLen (window s) s.maxHops s.scan).2 := by
          rw [matchAt, hb.2 (accept_pos ha), hb.1]
        rw [scanned_accepted hs hf ha, compressed_matchEmitted, hmatch]
        refine ⟨?_, rfl⟩
        rw [matchEmitted_finderStep, hb.1]
        rfl
      | false =>
        rw [scanned_rejected hs hf ha, compressed_finderStep, finderStep_flushed]
        exact ⟨rfl, (List.append_nil _).symm⟩
    · rw [if_neg fun h => hf h.2, scanned_covered hs (Nat.lt_of_not_le hf), compressed_finderStep, finderStep_flushed]
      exact ⟨rfl, (List.append_nil _).symm⟩
  · rw [if_neg fun h => hs h.1, scanned_last (Nat.le_of_not_lt hs)]
    exact ⟨rfl, (List.append_nil _).symm⟩

/-! ## The whole stream -/

/-- The positions left in the one-function form. -/
def refScan (s : State) : Nat × List Byte :=
  Ref.scanLoop s.src s.srcLen (window s) s.maxHops (s.srcLen - s.scan) s.scan s.flushed

/-- The stream that the one-function form makes of an encoder's state: the bytes appended, those of the positions left,
and the tail (42 R148). -/
def wholeStream (s : State) : List Byte :=
  compressed s ++ (refScan s).2 ++ Ref.tail s.src s.srcLen (refScan s).1

/-- A position appends what the stream has in store for it. -/
theorem position_wholeStream {s : State} (hs : s.scan < s.srcLen) (hch : ChainsOk s) :
    wholeStream (endPosition (scanned s)) = wholeStream s := by
  obtain ⟨hflushed, hbytes⟩ := scanned_eq_refPosition (hch.chainsTo_scan hs)
  have hleft : s.srcLen - s.scan = s.srcLen - (s.scan + 1) + 1 := by omega
  have hout : compressed (endPosition (scanned s)) = compressed s ++ (refPosition s).2 := hbytes
  have hscan : refScan (endPosition (scanned s)) =
      Ref.scanLoop s.src s.srcLen (window s) s.maxHops (s.srcLen - (s.scan + 1)) (s.scan + 1) (refPosition s).1 := by
    rw [← hflushed, scanned_frame s]
    rfl
  have hnow : refScan s = ((refScan (endPosition (scanned s))).1,
      (refPosition s).2 ++ (refScan (endPosition (scanned s))).2) := by
    rw [hscan, refScan, hleft]
    exact Ref.scanLoop_succ ..
  have hsrc : (endPosition (scanned s)).src = s.src := by
    rw [scanned_frame s]
    rfl
  have hlen : (endPosition (scanned s)).srcLen = s.srcLen := by
    rw [scanned_frame s]
    rfl
  rw [wholeStream, wholeStream, hout, hsrc, hlen, hnow]
  simp only [List.append_assoc]

/-- At the end of the input only the tail is left. -/
theorem wholeStream_at_end {s : State} (h : s.scan = s.srcLen) :
    wholeStream s = compressed s ++ Ref.tail s.src s.srcLen s.flushed := by
  have hscan : refScan s = (s.flushed, []) := by
    rw [refScan, h, Nat.sub_self]
    rfl
  rw [wholeStream, hscan, List.append_nil]

theorem position_encoderOk {s : State} (hs : s.scan < s.srcLen) (h : EncoderOk s) :
    EncoderOk (endPosition (scanned s)) := by
  refine endPosition_encoderOk (scanned_encoderOk h) ?_
  rw [scanned_frame s]
  exact hs

/-- A run of COMPRESS appends the whole stream of the state it starts from (42 R148). -/
theorem compress_run_wholeStream {s : State} (he : Encoding s) (h : EncoderOk s) (hch : ChainsOk s) :
    ∃ k t, Sys2Proof.core.run k s = .next t ∧ t.op = .idle ∧ t.status = .done ∧ t.err = none ∧
      compressed t = wholeStream s := by
  obtain ⟨u, ⟨hu, -, hstream⟩, -, hend, -, hrun⟩ :=
    compress_run (P := fun u => EncoderOk u ∧ ChainsOk u ∧ wholeStream u = wholeStream s)
      (fun u hu ⟨hok, hc, hw⟩ =>
        ⟨position_encoderOk hu hok, position_chainsOk hu hc, (position_wholeStream hu hc).trans hw⟩)
      he h.scan ⟨h, hch, rfl⟩
  refine ⟨_, _, hrun, rfl, rfl, rfl, ?_⟩
  rw [← hstream, wholeStream_at_end hend]
  exact compressed_finishStream hu.flushed

/-! ## The start of a COMPRESS -/

/-- The cells of a buffer are within its length, so a start command drops none of them (log 19). -/
theorem inputMemory_cells (job : Job) (bs : List Byte) (disjoint : Bool) :
    inputMemory ⟨job, Ref.cells bs, bs.length, disjoint⟩ = Memory.ofCells (Ref.cells bs) := by
  have hall : ∀ x ∈ Ref.cells bs, decide (x.1 < bs.length) = true := by
    intro x hx
    obtain ⟨⟨v, i⟩, hv, rfl⟩ := List.mem_map.1 hx
    exact decide_eq_true (List.mem_zipIdx' hv).1
  rw [inputMemory, List.filter_eq_self.2 hall]

/-- The state after the start step of `compress(bytes, options)`. -/
def compressStart (s : State) (bs : List Byte) (wb mh : Option Int) : State :=
  headerWritten (latch (Ref.compressCmd bs wb mh) (started s (Ref.compressCmd bs wb mh)))

section
variable {s : State} {bs : List Byte} {wb mh : Option Int}

theorem compressStart_src : (compressStart s bs wb mh).src = Memory.ofCells (Ref.cells bs) :=
  inputMemory_cells _ bs true

/-- The start step of a legal COMPRESS: the encoder runs at position 0 within its bounds, behind its header, with both
loop invariants (42 R130, R149). -/
theorem step_compressStart (hs : s.status ≠ .busy) (hn : bs.length ≤ 0xFFFFFF) (hw : windowBitsOk wb = true)
    (hm : maxHopsOk mh = true) :
    step (started s (Ref.compressCmd bs wb mh)) = .next (compressStart s bs wb mh) ∧
      Encoding (compressStart s bs wb mh) ∧ HeaderStands (headerBytes bs.length) (compressStart s bs wb mh) ∧
      ChainsOk (compressStart s bs wb mh) ∧ PrefixDecodes (compressStart s bs wb mh) := by
  have hlen : (latch (Ref.compressCmd bs wb mh) (started s (Ref.compressCmd bs wb mh))).srcLen ≤ 0xFFFFFF := hn
  have hok := startCompress_ok hlen
  have hstep : step (started s (Ref.compressCmd bs wb mh)) = .next (compressStart s bs wb mh) := by
    rw [step_started hs, startOperation, startRefusal_compressCmd hn hw hm]
    exact hok
  obtain ⟨t, ht, hinv⟩ := loopInvariantsAtStart _ hlen
  cases hok.symm.trans ht
  obtain ⟨u, hu, henc, -, hstands⟩ := step_started_compress hs hn hw hm
  cases hstep.symm.trans hu
  exact ⟨hstep, henc, hstands, hinv⟩

/-- Before its first position the whole stream is the output of the one-function form (42 R148). -/
theorem wholeStream_compressStart (hstands : HeaderStands (headerBytes bs.length) (compressStart s bs wb mh)) :
    wholeStream (compressStart s bs wb mh) =
      Ref.compress (Memory.ofCells (Ref.cells bs)) bs.length (paramOr wb 17) (paramOr mh 50) := by
  have hout : compressed (compressStart s bs wb mh) = headerBytes bs.length := hstands.2
  have hscan : refScan (compressStart s bs wb mh) =
      Ref.scanLoop (Memory.ofCells (Ref.cells bs)) bs.length (2 ^ paramOr wb 17) (paramOr mh 50) bs.length 0 0 := by
    rw [refScan, compressStart_src]
    rfl
  rw [wholeStream, hout, hscan, compressStart_src]
  rfl

end

/-- Settles O57: the start writes the header, and the run appends the rest of the whole stream. -/
theorem compressIsOneFunction : Obligations.CompressIsOneFunction := by
  intro s bs wb mh hs hn hw hm
  obtain ⟨hstart, henc, hstands, hch, -⟩ := step_compressStart hs hn hw hm
  obtain ⟨k, t, hrun, hop, hst, herr, hout⟩ := compress_run_wholeStream henc hstands.1 hch
  exact ⟨t, ⟨k + 1, (run_succ hstart k).trans hrun⟩, hop, hst, herr, hout.trans (wholeStream_compressStart hstands)⟩

end Sys2Proof.Machine

/-! SUPPORT. The token loop of the one-function decoder on what the encoder appends (42 R149, 43 R181): RawRuns, an
accepted match and the tail of the stream decode to the input they stand for: O56. -/

namespace Sys2Proof.Machine

/-! ## One token of the loop (43 R165 to R169) -/

/-- The token loop on a stream of its own length as fuel (43 R183). -/
def tokensFrom (size : Nat) (inp out : List Byte) : Except Failure (List Byte) :=
  Ref.loop size (inp.length + 1) inp out

theorem Ref.loop_reject {size fuel : Nat} {inp out : List Byte} {e : DecodeReject} (h : decode inp = .error e) :
    Ref.loop size (fuel + 1) inp out = .error .corrupt := by
  simp only [Ref.loop, h]

theorem Ref.loop_terminal {size fuel lit : Nat} {inp rest out : List Byte}
    (h : decode inp = .ok (.terminal lit, rest)) :
    Ref.loop size (fuel + 1) inp out = Ref.finish size lit rest out := by
  simp only [Ref.loop, h]

theorem Ref.loop_token {size fuel : Nat} {i : Instr} {inp rest out : List Byte} (h : decode inp = .ok (i, rest))
    (hk : i.kind ≠ .terminal) :
    Ref.loop size (fuel + 1) inp out =
      (Ref.token size i rest out).bind fun p => Ref.loop size fuel p.1 p.2 := by
  cases i with
  | terminal lit => exact absurd rfl hk
  | _ =>
    simp only [Ref.loop, h]
    split <;> simp only [Except.bind, *]

theorem Ref.literals_length_le {size k : Nat} {inp out inp' out' : List Byte}
    (h : Ref.literals size k inp out = .ok (inp', out')) : inp'.length ≤ inp.length := by
  induction k generalizing inp out with
  | zero =>
    cases h
    exact Nat.le_refl _
  | succ k ih =>
    cases inp with
    | nil => cases h
    | cons v inp =>
      rw [Ref.literals] at h
      split at h
      · cases h
      · exact (ih h).trans (Nat.le_succ _)

theorem Ref.copyMatch_length_le {size lit len off : Nat} {inp out inp' out' : List Byte}
    (h : Ref.copyMatch size lit len off inp out = .ok (inp', out')) : inp'.length ≤ inp.length := by
  rw [Ref.copyMatch] at h
  split at h
  · cases h
  · cases hb : Ref.backCopy size len off _ with
    | error e =>
      rw [hb] at h
      cases h
    | ok o =>
      rw [hb] at h
      cases h
      exact Ref.literals_length_le ‹_›

/-- A token takes bytes off the front of the stream only. -/
theorem Ref.token_length_le {size : Nat} {i : Instr} {inp out inp' out' : List Byte}
    (h : Ref.token size i inp out = .ok (inp', out')) : inp'.length ≤ inp.length := by
  cases i with
  | shortMatch => exact Ref.copyMatch_length_le h
  | mediumMatch => exact Ref.copyMatch_length_le h
  | longMatch => exact Ref.copyMatch_length_le h
  | rawRun => exact Ref.literals_length_le h
  | terminal =>
    cases h
    exact Nat.le_refl _

theorem length_lt_of_decode {bs rest : List Byte} {i : Instr} (h : decode bs = .ok (i, rest)) :
    rest.length < bs.length := by
  have hl := decode_length h
  have hp := controlBytes_pos i.kind
  omega

/-- Every pass takes a byte, so fuel above the length of the stream is enough (43 R183). -/
theorem Ref.loop_eq_tokensFrom {size fuel : Nat} {inp out : List Byte} (h : inp.length < fuel) :
    Ref.loop size fuel inp out = tokensFrom size inp out := by
  have enough : ∀ fuel fuel' (inp out : List Byte), inp.length < fuel → inp.length < fuel' →
      Ref.loop size fuel inp out = Ref.loop size fuel' inp out := by
    intro fuel
    induction fuel with
    | zero => exact fun _ _ _ h => absurd h (Nat.not_lt_zero _)
    | succ fuel ih =>
      intro fuel' inp out h h'
      obtain ⟨fuel', rfl⟩ := Nat.exists_eq_succ_of_ne_zero (Nat.ne_of_gt (Nat.zero_lt_of_lt h'))
      cases hd : decode inp with
      | error e => rw [Ref.loop_reject hd, Ref.loop_reject hd]
      | ok d =>
        obtain ⟨i, rest⟩ := d
        have hrest := length_lt_of_decode hd
        by_cases hk : i.kind = .terminal
        · cases i with
          | terminal lit => rw [Ref.loop_terminal hd, Ref.loop_terminal hd]
          | _ => cases hk
        · rw [Ref.loop_token hd hk, Ref.loop_token hd hk]
          cases ht : Ref.token size i rest out with
          | error e => rfl
          | ok p =>
            have hle := Ref.token_length_le (inp' := p.1) (out' := p.2) ht
            exact ih fuel' p.1 p.2 (by omega) (by omega)
  exact enough _ _ _ _ h (Nat.lt_succ_self _)

/-- A token that completes is one pass of the loop. -/
theorem tokensFrom_token {size : Nat} {i : Instr} {inp out inp' out' : List Byte} (hwf : i.wf = true)
    (hk : i.kind ≠ .terminal) (ht : Ref.token size i inp out = .ok (inp', out')) :
    tokensFrom size (encode i ++ inp) out = tokensFrom size inp' out' := by
  have hd := decodeOfEncode i inp hwf
  rw [tokensFrom, Ref.loop_token hd hk, ht]
  exact Ref.loop_eq_tokensFrom ((Ref.token_length_le ht).trans_lt (length_lt_of_decode hd))

/-! ## Copies within the room (43 R173, R174) -/

theorem Ref.literals_ok {size : Nat} (lits : List Byte) {inp out : List Byte}
    (h : out.length + lits.length ≤ size) :
    Ref.literals size lits.length (lits ++ inp) out = .ok (inp, out ++ lits) := by
  induction lits generalizing out with
  | nil => simp [Ref.literals]
  | cons v lits ih =>
    rw [List.length_cons] at h ⊢
    have hnext := ih (out := out ++ [v]) (by simp only [List.length_append, List.length_singleton]; omega)
    rw [List.cons_append, Ref.literals, if_neg (by omega), hnext, List.append_assoc, List.singleton_append]

theorem Memory.slice_zero_append (m : Memory) (j k : Nat) :
    Memory.slice m 0 j ++ Memory.slice m j k = Memory.slice m 0 (j + k) := by
  rw [Memory.slice_add, Nat.zero_add]

/-- Literals that continue the input continue the output. -/
theorem Ref.literals_slice (src : Memory) {size F k : Nat} (inp : List Byte) (h : F + k ≤ size) :
    Ref.literals size k (Memory.slice src F k ++ inp) (Memory.slice src 0 F) =
      .ok (inp, Memory.slice src 0 (F + k)) := by
  have hok := Ref.literals_ok (size := size) (Memory.slice src F k) (inp := inp) (out := Memory.slice src 0 F)
    (by simpa only [Memory.slice_length] using h)
  rwa [Memory.slice_length, Memory.slice_zero_append] at hok

theorem Memory.slice_getD (m : Memory) {a k i : Nat} (h : i < k) :
    (Memory.slice m a k).getD i 0 = Memory.read m (a + i) := by
  rw [List.getD_eq_getElem?_getD, Memory.slice_getElem? m a k i h, Option.getD_some]

/-- A back-copy of a repetition of the input continues the output (43 R174). -/
theorem Ref.backLoop_slice {src : Memory} {size off k p : Nat} (h1 : 1 ≤ off) (hp : off ≤ p) (hsize : p + k ≤ size)
    (hrep : ∀ j, j < k → Memory.read src (p + j) = Memory.read src (p - off + j)) :
    Ref.backLoop size off k (Memory.slice src 0 p) = .ok (Memory.slice src 0 (p + k)) := by
  induction k generalizing p with
  | zero => rfl
  | succ k ih =>
    have h0 : Memory.read src p = Memory.read src (p - off) := hrep 0 (Nat.succ_pos k)
    have hnext := ih (p := p + 1) (by omega) (by omega) fun j hj => by
      have hj := hrep (j + 1) (by omega)
      rwa [show p + (j + 1) = p + 1 + j by omega, show p - off + (j + 1) = p + 1 - off + j by omega] at hj
    rw [Ref.backLoop, Memory.slice_length, if_neg (by omega), Memory.slice_getD src (by omega), Nat.zero_add, ← h0,
      show p + (k + 1) = p + 1 + k by omega, ← hnext, Memory.slice_succ_last, Nat.zero_add]

/-- The literals before a match at `p` and its back-copy give the input up to the end of the match (43 R177). -/
theorem Ref.copyMatch_slice {src : Memory} {size lit len off p : Nat} (inp : List Byte) (hlit : lit ≤ p)
    (h1 : 1 ≤ off) (hp : off ≤ p) (hsize : p + len ≤ size)
    (hrep : ∀ j, j < len → Memory.read src (p + j) = Memory.read src (p - off + j)) :
    Ref.copyMatch size lit len off (Memory.slice src (p - lit) lit ++ inp) (Memory.slice src 0 (p - lit)) =
      .ok (inp, Memory.slice src 0 (p + len)) := by
  have hoff : ¬off > (Memory.slice src 0 p).length := by
    rw [Memory.slice_length]
    omega
  rw [Ref.copyMatch, Ref.literals_slice src inp (by omega), Nat.sub_add_cancel hlit]
  simp only [Ref.backCopy, if_neg hoff, Ref.backLoop_slice h1 hp hsize hrep, Except.map]

/-! ## What the encoder appends decodes to the input it stands for (42 R149) -/

/-- The RawRuns of a gap give the input up to the 0 to 3 bytes left (42 R138). -/
theorem tokensFrom_flushBytes (src : Memory) {size F p : Nat} (after : List Byte) (hF : F ≤ p) (hp : p ≤ size) :
    tokensFrom size (Ref.flushBytes src F p ++ after) (Memory.slice src 0 F) =
      tokensFrom size after (Memory.slice src 0 (p - (p - F) % 4)) := by
  induction hn : p - F using Nat.strongRecOn generalizing F with
  | ind n ih =>
    subst hn
    by_cases h : 4 ≤ p - F
    · have hr := rawRunLength_range h
      have hm := rawRunLength_mod h
      have hrest := ih _ (by omega) (F := F + rawRunLength (p - F)) (by omega) rfl
      have hwf : (Instr.rawRun (rawRunLength (p - F))).wf = true := (Instr.wf_rawRun _).2 (by omega)
      rw [Ref.flushBytes_step h, List.append_assoc, List.append_assoc,
        tokensFrom_token hwf (by simp [Instr.kind]) (Ref.literals_slice src _ (by omega)), hrest, Nat.sub_add_eq, hm]
    · rw [Ref.flushBytes_small (by omega), List.nil_append, show p - (p - F) % 4 = F by omega]

/-- The three shapes of a match token do one thing (43 R177). -/
theorem Ref.token_of_select {W lit len off : Nat} {i : Instr} (h : select W lit len off = some i) :
    i.kind ≠ .terminal ∧ ∀ size inp out, Ref.token size i inp out = Ref.copyMatch size lit len off inp out := by
  unfold select at h
  split at h
  · cases h
    exact ⟨nofun, fun _ _ _ => rfl⟩
  · split at h
    · cases h
      exact ⟨nofun, fun _ _ _ => rfl⟩
    · split at h <;> cases h
      exact ⟨nofun, fun _ _ _ => rfl⟩

/-- What an accepted match needs to be true of the input and the window (42 R149 c). -/
structure RealMatch (src : Memory) (W p len off : Nat) : Prop where
  accepted : accept len off = true
  len_le : len ≤ 1028
  off_pos : 1 ≤ off
  off_le : off ≤ p
  off_lt : off < W
  repeats : ∀ j, j < len → Memory.read src (p + j) = Memory.read src (p - off + j)

/-- The bytes of an accepted match give the input up to its end (42 R137). -/
theorem tokensFrom_matchBytes {src : Memory} {size W F p len off : Nat} (after : List Byte) (hW : W ≤ 131072)
    (hF : F ≤ p) (hm : RealMatch src W p len off) (hsize : p + len ≤ size) :
    tokensFrom size (Ref.matchBytes src W F p len off ++ after) (Memory.slice src 0 F) =
      tokensFrom size after (Memory.slice src 0 (p + len)) := by
  obtain ⟨i, hs, hwf, -⟩ := selectedShapeFits W ((p - F) % 4) len off hW (by omega) hm.accepted hm.len_le hm.off_pos
    hm.off_lt
  obtain ⟨hk, ht⟩ := Ref.token_of_select hs
  have hcopy := Ref.copyMatch_slice (lit := (p - F) % 4) after (by omega) hm.off_pos hm.off_le hsize hm.repeats
  simp only [Ref.matchBytes, hs, List.append_assoc]
  rw [tokensFrom_flushBytes src _ hF (by omega), tokensFrom_token hwf hk ((ht ..).trans hcopy)]

/-- The tail gives the whole input: its Terminal is read only for literals that are missing (42 R145, 43 R170). -/
theorem tokensFrom_tail (src : Memory) {n F : Nat} (hF : F ≤ n) :
    tokensFrom n (Ref.tail src n F) (Memory.slice src 0 F) = .ok (Memory.slice src 0 n) := by
  have hlits := Ref.literals_slice src (F := n - (n - F) % 4) (k := (n - F) % 4) (size := n) [] (by omega)
  rw [List.append_nil, Nat.sub_add_cancel (by omega)] at hlits
  have hd := decodeOfEncode (.terminal ((n - F) % 4)) (Memory.slice src (n - (n - F) % 4) ((n - F) % 4))
    ((Instr.wf_terminal _).2 (by omega))
  rw [Ref.tail, List.append_assoc, tokensFrom_flushBytes src _ hF (Nat.le_refl n), tokensFrom, Ref.loop_terminal hd,
    Ref.finish, Memory.slice_length]
  by_cases h : n - (n - F) % 4 < n
  · simp only [if_pos h, hlits, Memory.slice_length, if_true]
  · have hn : n - (n - F) % 4 = n := by omega
    rw [if_neg h]
    simp only [hn, Memory.slice_length, if_true]

theorem tail_self (src : Memory) (n : Nat) : Ref.tail src n n = encode (.terminal 0) := by
  rw [Ref.tail, Nat.sub_self, Ref.flushBytes_small (by omega)]
  rfl

/-! ## The invariant on the tokens appended so far (42 R149 b) -/

/-- The token bytes appended so far. -/
def tokenBytes (s : State) : List Byte := Memory.slice s.dst 5 (s.dlen - 5)

theorem prefixDecodes_iff (s : State) : PrefixDecodes s ↔ ∀ size after, s.flushed ≤ size →
    tokensFrom size (tokenBytes s ++ after) [] = tokensFrom size after (Memory.slice s.src 0 s.flushed) := Iff.rfl

/-- The invariant speaks of the output, the input and `flushed` only. -/
theorem PrefixDecodes.congr {s t : State} (h : PrefixDecodes s) (hb : tokenBytes t = tokenBytes s)
    (hs : t.src = s.src) (hf : t.flushed = s.flushed) : PrefixDecodes t := by
  rw [prefixDecodes_iff] at h ⊢
  rwa [hb, hs, hf]

theorem finderStep_prefixDecodes {s : State} (h : PrefixDecodes s) (b : Bool) : PrefixDecodes (finderStep b s) := by
  rw [finderStep_inserts b s]
  exact h.congr rfl rfl rfl

theorem tokenBytes_appendAll {s : State} (h : 5 ≤ s.dlen) (vs : List Byte) :
    tokenBytes (appendAll vs s) = tokenBytes s ++ vs := by
  have hcat := Memory.slice_writeBytes_append s.dst vs h
  rw [← Nat.sub_add_comm h] at hcat
  rw [appendAll_eq]
  exact hcat

theorem window_le {s : State} (h : EncoderOk s) : window s ≤ 131072 :=
  Nat.pow_le_pow_right (by decide) h.bits

theorem realMatch_of_best {s : State} (hb : BestInBounds s) (hr : BestRepeats s)
    (ha : accept s.bestLen s.bestOff = true) : RealMatch s.src (window s) s.scan s.bestLen s.bestOff := by
  obtain ⟨hcap, hoff⟩ := hb
  obtain ⟨h1, h2, h3⟩ := hoff (accept_pos ha)
  exact ⟨ha, hcap.trans (Nat.min_le_left ..), h1, h2, h3, hr⟩

/-- An accepted match extends the tokens by bytes that decode to the input up to its end (42 R149 b). -/
theorem matchEmitted_prefixDecodes {s : State} (h : EncoderOk s) (hp : PrefixDecodes s) (hb : BestInBounds s)
    (hr : BestRepeats s) (hf : s.flushed ≤ s.scan) (ha : accept s.bestLen s.bestOff = true) :
    PrefixDecodes (matchEmitted s) := by
  intro size after hsize
  have hbytes : tokenBytes (matchEmitted s) =
      tokenBytes s ++ Ref.matchBytes s.src (window s) s.flushed s.scan s.bestLen s.bestOff :=
    tokenBytes_appendAll h.header _
  have hsrc : (matchEmitted s).src = s.src := by
    rw [matchEmitted, appendAll_eq]
  have hfl : (matchEmitted s).flushed = s.scan + s.bestLen := rfl
  rw [hfl] at hsize
  change tokensFrom size (tokenBytes (matchEmitted s) ++ after) [] =
    tokensFrom size after (Memory.slice (matchEmitted s).src 0 (matchEmitted s).flushed)
  rw [hbytes, hsrc, hfl, List.append_assoc, (prefixDecodes_iff s).1 hp size _ (by omega),
    tokensFrom_matchBytes after (window_le h) hf (realMatch_of_best hb hr ha) hsize]

theorem scanned_prefixDecodes {s : State} (h : EncoderOk s) (hp : PrefixDecodes s) : PrefixDecodes (scanned s) := by
  rw [scanned]
  split
  · split
    · split
      · refine matchEmitted_prefixDecodes (finderStep_encoderOk true h) (finderStep_prefixDecodes hp true)
          (finderStep_best s) (finderStep_repeats s) ?_ ‹_›
        rwa [finderStep_flushed, finderStep_scan]
      · exact finderStep_prefixDecodes hp true
    · exact finderStep_prefixDecodes hp false
  · exact hp

theorem position_prefixDecodes {s : State} (h : EncoderOk s) (hp : PrefixDecodes s) :
    PrefixDecodes (endPosition (scanned s)) :=
  (scanned_prefixDecodes h hp).congr rfl rfl rfl

/-- Settles O56: every position keeps the invariant (`position_prefixDecodes`), and a Terminal with no literal is the
tail of an input that ends at `flushed`. -/
theorem prefixDecodesKept : Obligations.PrefixDecodesKept := by
  intro s t hinv he hp hs ho
  have hscan : s.scan < s.srcLen := by
    by_contra hn
    cases (step_finish he (Nat.le_of_not_lt hn)).symm.trans hs
    cases ho
  cases (step_position he hscan).symm.trans hs
  have hkept := position_prefixDecodes (hinv.encoder he.2) hp
  refine ⟨hkept, (hkept _ _ (Nat.le_refl _)).trans ?_⟩
  rw [← tail_self (endPosition (scanned s)).src (endPosition (scanned s)).flushed]
  exact tokensFrom_tail _ (Nat.le_refl _)

end Sys2Proof.Machine

/-! SUPPORT. DECOMPRESS as one function (43 R181): the copies, the tokens and the loop of the machine do on SRC and DST
what those of the one-function form do on lists; and with it the round trip: O58. -/

namespace Sys2Proof.Machine

/-! ## Slices cut short -/

theorem Memory.slice_take (m : Memory) (a k c : Nat) : (Memory.slice m a k).take c = Memory.slice m a (min c k) := by
  induction c generalizing a k with
  | zero => simp
  | succ c ih =>
    cases k with
    | zero => rfl
    | succ k =>
      rw [Nat.succ_min_succ]
      simp only [Memory.slice, List.take_succ_cons, ih]

theorem Memory.slice_drop (m : Memory) (a k c : Nat) :
    (Memory.slice m a k).drop c = Memory.slice m (a + c) (k - c) := by
  induction c generalizing a k with
  | zero => rfl
  | succ c ih =>
    cases k with
    | zero => simp
    | succ k => rw [Memory.slice, List.drop_succ_cons, ih, Nat.add_sub_add_right, Nat.add_right_comm, Nat.add_assoc]

/-! ## The decoder's state as two lists -/

/-- The bytes of SRC the decoder has not taken (43 R161). -/
def restOfStream (s : State) : List Byte := Memory.slice s.src s.ip (s.srcLen - s.ip)

/-- The bytes of DST the decoder has written (43 R163). -/
def outputSoFar (s : State) : List Byte := Memory.slice s.dst 0 s.wp

/-- What the one-function form keeps of a state. -/
def decoderView (s : State) : List Byte × List Byte := (restOfStream s, outputSoFar s)

theorem outputSoFar_length (s : State) : (outputSoFar s).length = s.wp := Memory.slice_length ..

theorem restOfStream_nil {s : State} (h : s.srcLen ≤ s.ip) : restOfStream s = [] := by
  rw [restOfStream, Nat.sub_eq_zero_of_le h, Memory.slice_zero]

theorem restOfStream_cons {s : State} (h : s.ip < s.srcLen) :
    restOfStream s = Memory.read s.src s.ip :: restOfStream { s with ip := s.ip + 1 } := by
  have hk : s.srcLen - s.ip = s.srcLen - (s.ip + 1) + 1 := by omega
  rw [restOfStream, hk]
  rfl

/-- A state further in the same stream. -/
theorem restOfStream_drop {s t : State} {c : Nat} (hs : t.src = s.src) (hl : t.srcLen = s.srcLen)
    (hi : t.ip = s.ip + c) : restOfStream t = (restOfStream s).drop c := by
  rw [restOfStream, restOfStream, Memory.slice_drop, hs, hl, hi, Nat.sub_add_eq]

/-- One output byte written is one byte more of the output (43 R176). -/
theorem outputSoFar_write (v : Byte) (s : State) :
    outputSoFar { s with dst := Memory.write s.dst s.wp v, wp := s.wp + 1 } = outputSoFar s ++ [v] :=
  Memory.slice_writeBytes_append s.dst [v] (Nat.zero_le s.wp)

/-! ## The copies (43 R173 to R175) -/

/-- LITCOPY on lists. -/
theorem literals_view (k : Nat) (s : State) :
    Ref.literals s.size k (restOfStream s) (outputSoFar s) = (litCopy k s).map decoderView := by
  induction k generalizing s with
  | zero => rfl
  | succ k ih =>
    by_cases hip : s.ip < s.srcLen
    · rw [restOfStream_cons hip, Ref.literals, outputSoFar_length, litCopy, fetch_ok hip]
      by_cases hwp : s.wp < s.size
      · have hput := putByte_ok (s := { s with ip := s.ip + 1 }) (Memory.read s.src s.ip) hwp
        have hout := outputSoFar_write (Memory.read s.src s.ip) { s with ip := s.ip + 1 }
        rw [if_neg (Nat.not_le.2 hwp)]
        simp only [hput]
        rw [← ih, hout]
        rfl
      · have hput := putByte_error (s := { s with ip := s.ip + 1 }) (Memory.read s.src s.ip) (Nat.le_of_not_lt hwp)
        rw [if_pos (Nat.le_of_not_lt hwp)]
        simp only [hput]
        rfl
    · rw [restOfStream_nil (Nat.le_of_not_lt hip), litCopy, fetch_error (Nat.le_of_not_lt hip)]
      rfl

/-- The loop of BACKCOPY on lists, from inside the output. -/
theorem backLoop_view {off : Nat} (k : Nat) {s : State} (h0 : 0 < off) (h1 : off ≤ s.wp) :
    Ref.backLoop s.size off k (outputSoFar s) = (backLoop off k s).map outputSoFar := by
  induction k generalizing s with
  | zero => rfl
  | succ k ih =>
    rw [Ref.backLoop, outputSoFar_length, backLoop]
    by_cases hwp : s.wp < s.size
    · have hread : (outputSoFar s).getD (s.wp - off) 0 = Memory.read s.dst (s.wp - off) := by
        rw [outputSoFar, Memory.slice_getD s.dst (by omega), Nat.zero_add]
      rw [if_neg (Nat.not_le.2 hwp), putByte_ok _ hwp, hread, ← outputSoFar_write]
      exact ih (s := { s with dst := Memory.write s.dst s.wp (Memory.read s.dst (s.wp - off)), wp := s.wp + 1 })
        (Nat.le_succ_of_le h1)
    · rw [if_pos (Nat.le_of_not_lt hwp), putByte_error _ (Nat.le_of_not_lt hwp)]
      rfl

theorem backCopy_view {len off : Nat} {s : State} (h0 : 0 < off) :
    Ref.backCopy s.size len off (outputSoFar s) = (backCopy len off s).map outputSoFar := by
  rw [Ref.backCopy, backCopy, outputSoFar_length]
  by_cases h : off > s.wp
  · rw [if_pos h, if_pos h]
    rfl
  · rw [if_neg h, if_neg h, backLoop_view len h0 (Nat.le_of_not_lt h)]

/-- A back-copy takes nothing from the stream. -/
theorem backCopy_keeps_stream (len off : Nat) (s : State) :
    ((backCopy len off s).map outputSoFar).map (fun o => (restOfStream s, o)) =
      (backCopy len off s).map decoderView := by
  by_cases h : BackFits len off s
  · rw [backCopy_ok h]
    rfl
  · rw [backCopy_error h]
    rfl

/-- A match token on lists (43 R177). -/
theorem copyMatch_view {lit len off : Nat} (s : State) (h0 : 0 < off) :
    Ref.copyMatch s.size lit len off (restOfStream s) (outputSoFar s) = (copyMatch lit len off s).map decoderView := by
  have hlit : Ref.literals s.size lit (restOfStream s) (outputSoFar s) =
      (litCopy lit { s with lit := lit, mlen := len, off := off }).map decoderView :=
    literals_view lit { s with lit := lit, mlen := len, off := off }
  rw [Ref.copyMatch, copyMatch, hlit]
  by_cases h : LiteralsFit lit s
  · rw [litCopy_ok (s := { s with lit := lit, mlen := len, off := off }) h]
    generalize hu : literalsCopied lit { s with lit := lit, mlen := len, off := off } = u
    have hsize : s.size = u.size := by rw [← hu]; rfl
    simp only [Except.map, decoderView, hsize]
    rw [backCopy_view h0]
    exact backCopy_keeps_stream len off u
  · rw [litCopy_error (s := { s with lit := lit, mlen := len, off := off }) h]
    rfl

/-! ## A token (43 R165 to R170) -/

theorem copyMatch_cases {lit len off : Nat} (s : State) (h0 : 0 < off) :
    (MatchFits lit len off s ∧ Ref.copyMatch s.size lit len off (restOfStream s) (outputSoFar s) =
      .ok (decoderView (matchCopied lit len off s))) ∨
    (¬MatchFits lit len off s ∧
      Ref.copyMatch s.size lit len off (restOfStream s) (outputSoFar s) = .error .corrupt) := by
  rw [copyMatch_view s h0]
  by_cases h : MatchFits lit len off s
  · exact .inl ⟨h, by rw [copyMatch_ok h]; rfl⟩
  · exact .inr ⟨h, by rw [copyMatch_error h]; rfl⟩

/-- A token of the loop does on lists what it does in the machine, or fails in both. -/
theorem token_cases {i : Instr} (s : State) (hwf : i.wf = true) (hk : i.kind ≠ .terminal) :
    (TokenFits i s ∧
      Ref.token s.size i (restOfStream s) (outputSoFar s) = .ok (decoderView (executed i s))) ∨
    (¬TokenFits i s ∧ Ref.token s.size i (restOfStream s) (outputSoFar s) = .error .corrupt) := by
  cases i with
  | shortMatch => exact copyMatch_cases s ((Instr.wf_shortMatch ..).1 hwf).2.2.2.1
  | mediumMatch => exact copyMatch_cases s ((Instr.wf_mediumMatch ..).1 hwf).2.2.2.1
  | longMatch => exact copyMatch_cases s ((Instr.wf_longMatch ..).1 hwf).2.2.2.1
  | rawRun len =>
    rw [Ref.token, literals_view]
    by_cases h : LiteralsFit len s
    · exact .inl ⟨h, by rw [litCopy_ok h]; rfl⟩
    · exact .inr ⟨h, by rw [litCopy_error h]; rfl⟩
  | terminal => exact absurd rfl hk

/-- The final check on lists (43 R172). -/
def checkedOutput (s : State) : Except Failure (List Byte) :=
  if s.wp = s.size then .ok (outputSoFar s) else .error .corrupt

/-- A Terminal and the final check give on lists what they give in the machine, or fail in both (43 R170, R172). -/
theorem finish_cases (lit : Nat) (s : State) :
    (TokenFits (.terminal lit) s ∧
      Ref.finish s.size lit (restOfStream { s with ip := s.ip + 1 }) (outputSoFar s) =
        checkedOutput (executed (.terminal lit) s)) ∨
    (¬TokenFits (.terminal lit) s ∧
      Ref.finish s.size lit (restOfStream { s with ip := s.ip + 1 }) (outputSoFar s) = .error .corrupt) := by
  have hlits : Ref.literals s.size lit (restOfStream { s with ip := s.ip + 1 }) (outputSoFar s) =
      (litCopy lit { s with ip := s.ip + 1 }).map decoderView := literals_view lit { s with ip := s.ip + 1 }
  rw [Ref.finish, executed, outputSoFar_length, hlits]
  by_cases hw : s.wp < s.size
  · rw [if_pos hw, if_pos hw]
    by_cases h : LiteralsFit lit { s with ip := s.ip + 1 }
    · refine .inl ⟨fun _ => h, ?_⟩
      rw [litCopy_ok h]
      simp only [Except.map, decoderView, outputSoFar_length]
      rfl
    · refine .inr ⟨fun hf => h (hf hw), ?_⟩
      rw [litCopy_error h]
      rfl
  · refine .inl ⟨fun hlt => absurd hlt hw, ?_⟩
    rw [if_neg hw, if_neg hw]
    simp only [outputSoFar_length]
    rfl

/-! ## The control bytes (43 R161) -/

theorem controlWindow_eq_take (s : State) : controlWindow s = (restOfStream s).take 4 := by
  rw [restOfStream, Memory.slice_take]
  rfl

theorem controlBytes_le (k : Kind) : k.controlBytes ≤ 4 := by
  cases k <;> decide

/-- A token's control bytes are among the first four bytes, so those decide what is decoded. -/
theorem decode_take_iff (bs : List Byte) (i : Instr) :
    (∃ rest, decode (bs.take 4) = .ok (i, rest)) ↔ ∃ rest, decode bs = .ok (i, rest) := by
  constructor
  · rintro ⟨rest, h⟩
    obtain ⟨hwf, heq⟩ := encodeOfDecode _ _ _ h
    have hbs : bs = encode i ++ (rest ++ bs.drop 4) := by
      rw [← List.append_assoc, ← heq, List.take_append_drop]
    exact ⟨_, (congrArg decode hbs).trans (decodeOfEncode i _ hwf)⟩
  · rintro ⟨rest, h⟩
    obtain ⟨hwf, rfl⟩ := encodeOfDecode _ _ _ h
    have hlen : (encode i).length ≤ 4 := (encode_length i).trans_le (controlBytes_le i.kind)
    rw [List.take_append, List.take_of_length_le hlen]
    exact ⟨_, decodeOfEncode i _ hwf⟩

/-- The loop of the machine reads the token that the stream decodes to (43 R165). -/
theorem tokenStep_decoded {s : State} {i : Instr} {rest : List Byte} (h : decode (restOfStream s) = .ok (i, rest)) :
    tokenStep s = endToken (exec i (fetched i.kind s)) := by
  obtain ⟨r, hr⟩ := (decode_take_iff _ i).2 ⟨rest, h⟩
  rw [tokenStep, controlWindow_eq_take, hr]

theorem tokenStep_rejected {s : State} {e : DecodeReject} (h : decode (restOfStream s) = .error e) :
    tokenStep s = .next (raise .corrupt s) := by
  rw [tokenStep, controlWindow_eq_take]
  cases hd : decode ((restOfStream s).take 4) with
  | error => rfl
  | ok d =>
    obtain ⟨r, hr⟩ := (decode_take_iff _ d.1).1 ⟨d.2, hd⟩
    cases h.symm.trans hr

/-- Past its control bytes the stream is what decoding leaves. -/
theorem drop_controlBytes {bs rest : List Byte} {i : Instr} (h : decode bs = .ok (i, rest)) :
    bs.drop i.kind.controlBytes = rest := by
  obtain ⟨-, rfl⟩ := encodeOfDecode _ _ _ h
  rw [← encode_length, List.drop_left]

theorem restOfStream_fetched {s : State} {i : Instr} {rest : List Byte}
    (h : decode (restOfStream s) = .ok (i, rest)) (hk : i.kind ≠ .terminal) :
    restOfStream (fetched i.kind s) = rest := by
  have hf := fetched_frame i.kind s
  rw [← drop_controlBytes h]
  refine restOfStream_drop ?_ ?_ ?_
  · rw [hf]
  · rw [hf]
  · rw [fetched_ip, if_neg hk]

/-! ## The run (43 R181) -/

theorem Reaches.refl (s : State) : Reaches s s := ⟨0, rfl⟩

theorem Reaches.head {s t u : State} (h : step s = .next t) (hr : Reaches t u) : Reaches s u := by
  obtain ⟨k, hk⟩ := hr
  exact ⟨k + 1, (run_succ h k).trans hk⟩

/-- The operation has ended with the result or the failure of the one-function form (43 R181). -/
def EndsWith (r : Except Failure (List Byte)) (t : State) : Prop :=
  t.op = .idle ∧
    match r with
    | .ok out => t.status = .done ∧ t.err = none ∧ decompressed t = out
    | .error e => t.status = .failed ∧ t.err = some e

theorem endsWith_raise (e : Failure) (s : State) : EndsWith (.error e) (raise e s) := ⟨rfl, rfl, rfl⟩

/-- The last step of DECOMPRESS is the final check (43 R172). -/
theorem done_ends {s : State} (hp : s.port = none) (ho : s.op = .decompress) (hd : s.dstate = .done) :
    ∃ t, Reaches s t ∧ EndsWith (checkedOutput s) t := by
  have hstep : step s = finalCheck s := by simp only [step, decompressStep, hp, ho, hd]
  rw [finalCheck] at hstep
  rw [checkedOutput]
  by_cases h : s.wp = s.size
  · rw [if_pos h] at hstep
    rw [if_pos h, outputSoFar, h]
    exact ⟨_, .head hstep (.refl _), rfl, rfl, rfl, rfl⟩
  · rw [if_neg h] at hstep
    rw [if_neg h]
    exact ⟨_, .head hstep (.refl _), endsWith_raise _ s⟩

/-- A token whose checks fail ends the operation with Corrupt. -/
theorem token_fails {s : State} {i : Instr} {rest : List Byte} (hs : Fetching s)
    (h : decode (restOfStream s) = .ok (i, rest)) (hf : ¬TokenFits i (fetched i.kind s)) :
    ∃ t, Reaches s t ∧ EndsWith (.error .corrupt) t := by
  have hstep : step s = .next (raise .corrupt s) := by
    rw [step_fetching hs, tokenStep_decoded h, exec_error hf, endToken_raise, raise_fetched]
  exact ⟨_, .head hstep (.refl _), endsWith_raise _ s⟩

/-- The state after a token fetched and executed (43 R165). -/
def tokenDone (i : Instr) (s : State) : State := dropTokenTemps (executed i (fetched i.kind s))

theorem tokenDone_frame (i : Instr) (s : State) : TokenFrame s (tokenDone i s) :=
  ((fetched_frame i.kind s).trans (executed_frame i _)).trans (dropTokenTemps_frame _)

theorem step_token {s : State} {i : Instr} {rest : List Byte} (hs : Fetching s)
    (h : decode (restOfStream s) = .ok (i, rest)) (hf : TokenFits i (fetched i.kind s)) :
    step s = .next (tokenDone i s) := by
  have hop : (executed i (fetched i.kind s)).op = .decompress := by
    rw [executed_op, fetched_frame i.kind s, hs.2.1]
  rw [step_fetching hs, tokenStep_decoded h, exec_ok hf, endToken_running hop, tokenDone]

/-- The Terminal ends the operation as the one-function form does (43 R170, R172). -/
theorem terminal_ends {s : State} {lit : Nat} {rest : List Byte} (hs : Fetching s)
    (h : decode (restOfStream s) = .ok (.terminal lit, rest)) :
    ∃ t, Reaches s t ∧ EndsWith (Ref.finish s.size lit rest (outputSoFar s)) t := by
  have hrest : restOfStream { fetched .terminal s with ip := (fetched .terminal s).ip + 1 } = rest := by
    rw [← drop_controlBytes h]
    exact restOfStream_drop rfl rfl rfl
  have hfinish := finish_cases lit (fetched .terminal s)
  rw [hrest] at hfinish
  obtain ⟨hf, hfinish⟩ | ⟨hf, hfinish⟩ := hfinish
  · have hframe := tokenDone_frame (.terminal lit) s
    have hd : (tokenDone (.terminal lit) s).dstate = .done := executed_fetched_dstate (.terminal lit) s
    obtain ⟨t, hr, ht⟩ := done_ends (by rw [hframe]; exact hs.1) (by rw [hframe]; exact hs.2.1) hd
    exact ⟨t, .head (step_token hs h hf) hr, hfinish ▸ ht⟩
  · exact hfinish ▸ token_fails hs h hf

theorem tokenDone_fetching {i : Instr} {s : State} (hs : Fetching s) (hk : i.kind ≠ .terminal) :
    Fetching (tokenDone i s) := by
  obtain ⟨hp, ho, hd⟩ := hs
  have hframe := tokenDone_frame i s
  refine ⟨by rw [hframe]; exact hp, by rw [hframe]; exact ho, ?_⟩
  exact (executed_fetched_dstate i s).trans (by rw [if_neg hk, hd])

/-- A token of the loop, fetched and executed, against the token of the one-function form. -/
theorem tokenDone_cases {s : State} {i : Instr} {rest : List Byte} (h : decode (restOfStream s) = .ok (i, rest))
    (hk : i.kind ≠ .terminal) :
    (TokenFits i (fetched i.kind s) ∧
      Ref.token s.size i rest (outputSoFar s) = .ok (decoderView (tokenDone i s))) ∨
    (¬TokenFits i (fetched i.kind s) ∧ Ref.token s.size i rest (outputSoFar s) = .error .corrupt) := by
  have hsize : (fetched i.kind s).size = s.size := by rw [fetched_frame i.kind s]
  have hout : outputSoFar (fetched i.kind s) = outputSoFar s := by
    rw [outputSoFar, outputSoFar, fetched_dst, fetched_wp]
  have hcases := token_cases (fetched i.kind s) (encodeOfDecode _ _ _ h).1 hk
  rwa [restOfStream_fetched h hk, hsize, hout] at hcases

/-- The run of the machine's token loop is the loop of the one-function form on the rest of the stream and the output
so far (43 R181). -/
theorem tokenLoop_ends {fuel : Nat} {s : State} (hs : Fetching s) (hfuel : (restOfStream s).length < fuel) :
    ∃ t, Reaches s t ∧ EndsWith (Ref.loop s.size fuel (restOfStream s) (outputSoFar s)) t := by
  induction fuel generalizing s with
  | zero => exact absurd hfuel (Nat.not_lt_zero _)
  | succ fuel ih =>
    cases hd : decode (restOfStream s) with
    | error e =>
      rw [Ref.loop_reject hd]
      exact ⟨_, .head ((step_fetching hs).trans (tokenStep_rejected hd)) (.refl _), endsWith_raise _ s⟩
    | ok d =>
      obtain ⟨i, rest⟩ := d
      by_cases hk : i.kind = .terminal
      · cases i with
        | terminal lit =>
          rw [Ref.loop_terminal hd]
          exact terminal_ends hs hd
        | _ => cases hk
      · have hrest := (length_lt_of_decode hd).trans_le (Nat.le_of_lt_succ hfuel)
        rw [Ref.loop_token hd hk]
        obtain ⟨hf, ht⟩ | ⟨hf, ht⟩ := tokenDone_cases hd hk
        · have hshort : (restOfStream (tokenDone i s)).length < fuel := (Ref.token_length_le ht).trans_lt hrest
          obtain ⟨t, hr, hend⟩ := ih (tokenDone_fetching hs hk) hshort
          rw [show (tokenDone i s).size = s.size by rw [tokenDone_frame i s]] at hend
          rw [ht]
          exact ⟨t, .head (step_token hs hd hf) hr, hend⟩
        · rw [ht]
          exact token_fails hs hd hf

/-! ## Buffers as lists -/

theorem ofCells_cells (bs : List Byte) : Memory.ofCells (Ref.cells bs) = Memory.writeBytes [] 0 bs := by
  have hfold (a : Nat) (m : Memory) :
      ((bs.zipIdx a).map fun x => (x.2, x.1)).foldl (fun m c => Memory.write m c.1 c.2) m =
        Memory.writeBytes m a bs := by
    induction bs generalizing a m with
    | nil => rfl
    | cons v vs ih => exact ih (a + 1) (Memory.write m a v)
  exact hfold 0 []

theorem slice_cells (bs : List Byte) : Memory.slice (Memory.ofCells (Ref.cells bs)) 0 bs.length = bs := by
  rw [ofCells_cells, Memory.slice_writeBytes]

/-- The cells of two buffers in a row are a slice each. -/
theorem slice_cells_append (as bs : List Byte) :
    Memory.slice (Memory.ofCells (Ref.cells (as ++ bs))) 0 as.length = as ∧
      Memory.slice (Memory.ofCells (Ref.cells (as ++ bs))) as.length bs.length = bs := by
  have h := slice_cells (as ++ bs)
  rw [List.length_append, ← Memory.slice_zero_append] at h
  exact List.append_inj h (Memory.slice_length ..)

/-! ## A DECOMPRESS of a stream with a normal header -/

/-- The state after the header of `n` bytes has been read (40 R103). -/
def headerRead (n : Nat) (s : State) : State :=
  { s with hlen := 5, size := n, ip := 5, wp := 0, dstate := .running }

/-- The header read on the header of `n` bytes (40 R103, R106). -/
theorem startDecompress_header {u : State} {n : Nat} (hn : n ≤ 0xFFFFFF) (hlen : 5 ≤ u.srcLen)
    (h : Memory.slice u.src 0 5 = headerBytes n) :
    startDecompress u = .next (headerRead n u) := by
  obtain ⟨h0, h1, h2, h3, h4⟩ := read_of_slice_eq_headerBytes h
  obtain ⟨n2, n3, n4⟩ := sizeBytes_toNat hn
  have hread := (decompressStarts u).2.2
  have hsize : n / 65536 * 65536 + n / 256 % 256 * 256 + n % 256 = n := by omega
  simp only [h0, h1, h2, h3, h4, n2, n3, n4, hsize] at hread
  exact hread (by omega) (by decide) hlen

theorem startRefusal_decompressCmd {bs : List Byte} (h : bs.length < 2 ^ 32) :
    startRefusal (Ref.decompressCmd bs) = none := by
  have hl : ¬Config.srcLenLimit ≤ bs.length := Nat.not_le.2 h
  simp [startRefusal, Ref.decompressCmd, hl]

/-- A stream with the header of `n` decompresses to what its tokens give. -/
theorem decompress_ends {s : State} {n : Nat} {tokens : List Byte} (hs : s.status ≠ .busy) (hn : n ≤ 0xFFFFFF)
    (hlen : (headerBytes n ++ tokens).length < 2 ^ 32) :
    ∃ t, Reaches (started s (Ref.decompressCmd (headerBytes n ++ tokens))) t ∧ EndsWith (Ref.tokens n tokens) t := by
  generalize hc : Ref.decompressCmd (headerBytes n ++ tokens) = c
  generalize hL : latch c (started s c) = L
  have hjob : c.job = .decompress := by rw [← hc]; rfl
  have hrefusal : startRefusal c = none := hc ▸ startRefusal_decompressCmd hlen
  have hlatched : Latched c L := hL ▸ latch_latched c (started s c)
  obtain ⟨hhead, htail⟩ := slice_cells_append (headerBytes n) tokens
  have hsrc : L.src = Memory.ofCells (Ref.cells (headerBytes n ++ tokens)) := by
    rw [hlatched.src, ← hc]
    exact inputMemory_cells _ _ true
  have hsrcLen : L.srcLen = tokens.length + 5 := by
    rw [hlatched.srcLen, ← hc]
    exact List.length_append.trans (Nat.add_comm ..)
  have hstart : step (started s c) = .next (headerRead n L) := by
    rw [step_started hs, startOperation, hrefusal, hjob, hL]
    exact startDecompress_header hn (by omega) (hsrc ▸ hhead)
  have hfetch : Fetching (headerRead n L) := ⟨hL ▸ latch_port c _, hL ▸ latch_op_decompress hjob _, rfl⟩
  have hrest : restOfStream (headerRead n L) = tokens := by
    change Memory.slice L.src 5 (L.srcLen - 5) = tokens
    rw [hsrc, hsrcLen]
    exact htail
  obtain ⟨t, hr, hend⟩ := tokenLoop_ends hfetch (Nat.lt_succ_self _)
  rw [hrest] at hend
  exact ⟨t, .head hstart hr, hend⟩

/-! ## The round trip (42 R154) -/

/-- What a run of COMPRESS keeps for the decoder: the header, the tokens that decode, and the input. -/
structure Decodable (n : Nat) (src : Memory) (s : State) : Prop where
  stands : HeaderStands (headerBytes n) s
  decodes : PrefixDecodes s
  input : s.src = src

theorem position_decodable {n : Nat} {src : Memory} {s : State} (hs : s.scan < s.srcLen) (h : Decodable n src s) :
    Decodable n src (endPosition (scanned s)) where
  stands := position_headerStands hs h.stands
  decodes := position_prefixDecodes h.stands.1 h.decodes
  input := by
    rw [scanned_frame s]
    exact h.input

/-- The output after the end step: the header, and tokens that decode to the whole input (42 R149 b, R154). -/
theorem finishStream_decodes {n : Nat} {src : Memory} {s : State} (h : Decodable n src s) (hn : s.srcLen = n) :
    ∃ tokens, compressed (finishStream s) = headerBytes n ++ tokens ∧
      Ref.tokens n tokens = .ok (Memory.slice src 0 n) := by
  obtain ⟨⟨hok, hheader⟩, hdec, rfl⟩ := h
  have hflushed := hok.flushed
  have hdlen : 5 + (s.dlen - 5) = s.dlen := Nat.add_sub_cancel' hok.header
  have hsplit : compressed s = headerBytes n ++ tokenBytes s := by
    rw [compressed, tokenBytes, ← hheader, Memory.slice_zero_append, hdlen]
  subst hn
  refine ⟨tokenBytes s ++ Ref.tail s.src s.srcLen s.flushed, ?_, ?_⟩
  · rw [compressed_finishStream hflushed, hsplit, List.append_assoc]
  · exact ((prefixDecodes_iff s).1 hdec _ _ hflushed).trans (tokensFrom_tail s.src hflushed)

/-- Settles O58: COMPRESS ends with a header and tokens that decode to its input (`finishStream_decodes`), and
DECOMPRESS of them gives what they decode to (`decompress_ends`). -/
theorem roundTrip : Obligations.RoundTrip := by
  intro s bs wb mh hs hn hw hm
  obtain ⟨hstart, henc, hstands, -, hdec⟩ := step_compressStart hs hn hw hm
  obtain ⟨u, hu, -, -, hlen, hrun⟩ := compress_run (fun _ => position_decodable) henc (Nat.zero_le _)
    ⟨hstands, hdec, compressStart_src⟩
  have hlen : u.srcLen = bs.length := hlen
  obtain ⟨tokens, hout, htokens⟩ := finishStream_decodes hu hlen
  rw [slice_cells] at htokens
  refine ⟨complete (dropFinderTemps (finishStream u)), .head hstart ⟨_, hrun⟩, rfl, rfl, ?_⟩
  have hcompressed : compressed (complete (dropFinderTemps (finishStream u))) = headerBytes bs.length ++ tokens := hout
  have hsmall : (headerBytes bs.length ++ tokens).length < 2 ^ 32 := by
    have hle := finishStream_dlen_le hu.stands.1
    rw [← hout, compressed, Memory.slice_length]
    omega
  obtain ⟨v, hv, hop, hst, -, hres⟩ :=
    htokens ▸ decompress_ends (s := complete (dropFinderTemps (finishStream u))) nofun hn hsmall
  rw [hcompressed]
  exact ⟨v, hv, hop, hst, hres⟩

end Sys2Proof.Machine

/-! SUPPORT. A whole run of DECOMPRESS against the one-function form (43 R181): the header read on lists, whatever the
header, and then the token loop: O38. -/

namespace Sys2Proof.Machine

/-- The bytes of a buffer given as a list, and 0 past its end (log 1). -/
theorem read_cells (bs : List Byte) (a : Nat) : Memory.read (Memory.ofCells (Ref.cells bs)) a = bs.getD a 0 := by
  rw [ofCells_cells, Memory.read_writeBytes, Nat.sub_zero, Nat.zero_add]
  split
  · rfl
  · rename_i h
    rw [Memory.read_nil, List.getD_eq_default _ _ (by omega)]

/-- The state after the header has been read, whichever its form (40 R103). -/
def headerTaken (s : State) : State :=
  { s with
    hlen := headerLength (extLength s.hdrExtLen) s, size := headerSize s,
    ip := headerLength (extLength s.hdrExtLen) s, wp := 0, dstate := .running }

/-- SRC is the buffer `bs`. -/
structure HoldsInput (bs : List Byte) (s : State) : Prop where
  src : s.src = Memory.ofCells (Ref.cells bs)
  srcLen : s.srcLen = bs.length

section
variable {bs : List Byte} {s : State}

/-- The start of DECOMPRESS latches the buffer of its command, and nothing of the machine but `HDR_EXT_LEN`. -/
theorem latch_holdsInput (bs : List Byte) (s : State) : HoldsInput bs (latch (Ref.decompressCmd bs) s) :=
  ⟨inputMemory_cells _ bs true, rfl⟩

theorem HoldsInput.read (h : HoldsInput bs s) (a : Nat) : Memory.read s.src a = bs.getD a 0 := by
  rw [h.src, read_cells]

/-- The one-function form in the words of the machine's header read (40 R102, R103). -/
theorem HoldsInput.decompress_eq (h : HoldsInput bs s) (ext : Nat) :
    Ref.decompress ext bs =
      if s.srcLen < 2 ∨ ¬magicOk s = true then .error .invalidMagic
      else if s.srcLen < headerLength ext s then .error .corrupt
      else Ref.tokens (headerSize s) (bs.drop (headerLength ext s)) := by
  simp only [Ref.decompress, magicOk_iff, headerLength_eq, headerSize, h.read, h.srcLen]

/-- After the header the stream is the buffer without it. -/
theorem HoldsInput.restOfStream_headerTaken (h : HoldsInput bs s) :
    restOfStream (headerTaken s) = bs.drop (headerLength (extLength s.hdrExtLen) s) := by
  have hall : Memory.slice s.src 0 s.srcLen = bs := by rw [h.src, h.srcLen, slice_cells]
  rw [← hall, Memory.slice_drop, Nat.zero_add]
  rfl

end

/-- Settles O38: the header read ends as the one-function form does (`HoldsInput.decompress_eq`), and behind a header in
order the token loop is the one of `tokenLoop_ends`. -/
theorem decompressIsOneFunction : Obligations.DecompressIsOneFunction := by
  intro s bs hs hn
  generalize hL : latch (Ref.decompressCmd bs) (started s (Ref.decompressCmd bs)) = L
  have hin : HoldsInput bs L := hL ▸ latch_holdsInput bs _
  have hext : L.hdrExtLen = s.hdrExtLen := hL ▸ latch_hdrExtLen _ _
  have hstart : step (started s (Ref.decompressCmd bs)) = startDecompress L := by
    rw [step_started hs, startOperation, startRefusal_decompressCmd hn, hL]
    rfl
  suffices hend : ∃ t, Reaches (started s (Ref.decompressCmd bs)) t ∧
      EndsWith (Ref.decompress (extLength L.hdrExtLen) bs) t by
    rwa [hext] at hend
  rw [hin.decompress_eq]
  by_cases hm : L.srcLen < 2 ∨ ¬magicOk L = true
  · rw [if_pos hm]
    exact ⟨_, .head (hstart.trans (startDecompress_invalidMagic hm)) (.refl _), endsWith_raise _ L⟩
  · obtain ⟨h2, hmagic⟩ := not_or.1 hm
    have h2 := Nat.le_of_not_lt h2
    have hmagic := not_not.1 hmagic
    rw [if_neg hm]
    by_cases hl : L.srcLen < headerLength (extLength L.hdrExtLen) L
    · rw [if_pos hl]
      exact ⟨_, .head (hstart.trans (startDecompress_corrupt h2 hmagic hl)) (.refl _), endsWith_raise _ L⟩
    · rw [if_neg hl]
      have hfetch : Fetching (headerTaken L) := ⟨hL ▸ latch_port _ _, hL ▸ latch_op_decompress rfl _, rfl⟩
      obtain ⟨t, hr, hend⟩ := tokenLoop_ends hfetch (Nat.lt_succ_self _)
      rw [hin.restOfStream_headerTaken] at hend
      exact ⟨t, .head (hstart.trans (startDecompress_ok h2 hmagic (Nat.le_of_not_lt hl))) hr, hend⟩

end Sys2Proof.Machine

/-! SUPPORT. The five tokens from a state whose control bytes have been fetched: when their checks pass, in the words of
the stream, and what they do to `ip`, `wp` and DST (43 R166 to R170, R173 to R177): O9, O10 and O11. -/

namespace Sys2Proof.Machine

/-! ## Past the control bytes -/

/-- `u` is `s` with `ip` moved past `c` control bytes, as far as a token's copies see (43 R161). -/
structure Past (c : Nat) (s u : State) : Prop where
  ip : u.ip = s.ip + c
  wp : u.wp = s.wp
  src : u.src = s.src
  dst : u.dst = s.dst
  srcLen : u.srcLen = s.srcLen
  size : u.size = s.size

theorem Past.refl (s : State) : Past 0 s s := ⟨rfl, rfl, rfl, rfl, rfl, rfl⟩

theorem past_nextByte (s : State) : Past 1 s { s with ip := s.ip + 1 } := ⟨rfl, rfl, rfl, rfl, rfl, rfl⟩

/-- The literal count is a temporary that no copy reads. -/
theorem Past.withLit {c : Nat} {s u : State} (h : Past c s u) (lit : Nat) : Past c s { u with lit := lit } :=
  ⟨h.ip, h.wp, h.src, h.dst, h.srcLen, h.size⟩

theorem fetched_past {k : Kind} (hk : k ≠ .terminal) (s : State) : Past k.controlBytes s (fetched k s) := by
  have hf := fetched_frame k s
  refine ⟨(fetched_ip k s).trans (by rw [if_neg hk]), fetched_wp k s, ?_, fetched_dst k s, ?_, ?_⟩ <;> rw [hf]

section
variable {c : Nat} {s u : State}

/-! ## The checks -/

/-- The checks of a literal copy that is not empty (43 R173, R176). -/
theorem Past.literalsFit_iff (h : Past c s u) {k : Nat} (hk : 0 < k) :
    LiteralsFit k u ↔ s.ip + c + k ≤ s.srcLen ∧ s.wp + k ≤ s.size := by
  simp only [LiteralsFit, h.ip, h.wp, h.srcLen, h.size]
  omega

/-- The checks of a literal copy that may be empty, from inside the output. -/
theorem Past.literalsFit_iff_there (h : Past c s u) {k : Nat} (hw : s.wp ≤ s.size) :
    LiteralsFit k u ↔ LiteralsThere s c k ∧ s.wp + k ≤ s.size := by
  simp only [LiteralsFit, LiteralsThere, h.ip, h.wp, h.srcLen, h.size]
  omega

/-- The checks of a match token (43 R177, 60 R193 c, e, f). -/
theorem Past.matchFits_iff (h : Past c s u) {lit mlen off : Nat} (hm : 0 < mlen) :
    MatchFits lit mlen off u ↔ MatchInBounds s c lit mlen off := by
  simp only [MatchFits, LiteralsFit, BackFits, literalsCopied, MatchInBounds, LiteralsThere, h.ip, h.wp, h.srcLen,
    h.size]
  omega

/-! ## The effects -/

/-- A literal copy writes the bytes of the stream at `wp`, and no other byte (43 R173). -/
theorem Past.literalEffect (h : Past c s u) (k : Nat) : LiteralEffect s (literalsCopied k u) c k := by
  have hread (a : Nat) : Memory.read (literalsCopied k u).dst a =
      if s.wp ≤ a ∧ a < s.wp + k then (Memory.slice s.src (s.ip + c) k).getD (a - s.wp) 0
      else Memory.read s.dst a := by
    rw [literalsCopied, Memory.read_writeBytes, Memory.slice_length, h.ip, h.wp, h.src, h.dst]
  refine ⟨by rw [literalsCopied, h.ip], by rw [literalsCopied, h.wp], fun i hi => ?_, fun a ha => ?_⟩
  · rw [hread, if_pos (by omega), Nat.add_sub_cancel_left, Memory.slice_getD s.src hi]
  · rw [hread, if_neg (by omega)]

/-- A match token writes its literals, then bytes that repeat with period `off`, and no other byte (43 R177). -/
theorem Past.matchEffect (h : Past c s u) {lit mlen off : Nat} (h0 : 0 < off) (h1 : off ≤ s.wp + lit) :
    MatchEffect s (matchCopied lit mlen off u) c lit mlen off := by
  obtain ⟨hip, hwp, hlits, hrest⟩ := h.literalEffect lit
  have hread (a : Nat) : Memory.read (matchCopied lit mlen off u).dst a =
      if s.wp + lit ≤ a ∧ a < s.wp + lit + mlen then Memory.read (matchCopied lit mlen off u).dst (a - off)
      else Memory.read (literalsCopied lit u).dst a := by
    rw [← hwp] at h1 ⊢
    exact read_backFill h0 h1 a
  refine ⟨hip, congrArg (· + mlen) hwp, fun i hi => ?_, fun k hk => ?_, fun a ha => ?_⟩
  · rw [hread, if_neg (by omega), hlits i hi]
  · rw [hread, if_pos (by omega)]
  · rw [hread, if_neg (by omega), hrest a (by omega)]

end

/-! The effects speak of `ip`, `wp` and DST only. -/

theorem literalEffect_markDone (s t : State) (c k : Nat) : LiteralEffect s (markDone t) c k ↔ LiteralEffect s t c k :=
  Iff.rfl

theorem literalEffect_dropTokenTemps (s t : State) (c k : Nat) :
    LiteralEffect s (dropTokenTemps t) c k ↔ LiteralEffect s t c k := Iff.rfl

theorem matchEffect_dropTokenTemps (s t : State) (c lit mlen off : Nat) :
    MatchEffect s (dropTokenTemps t) c lit mlen off ↔ MatchEffect s t c lit mlen off := Iff.rfl

/-! ## The three match tokens are one -/

/-- `i` is a match token with these fields (30 R73 to R75). -/
def IsMatch (i : Instr) (lit mlen off : Nat) : Prop :=
  i = .shortMatch lit mlen off ∨ i = .mediumMatch lit mlen off ∨ i = .longMatch lit mlen off

theorem IsMatch.tokenFits_iff {i : Instr} {lit mlen off : Nat} (h : IsMatch i lit mlen off) (s : State) :
    TokenFits i s ↔ MatchFits lit mlen off s := by
  rcases h with rfl | rfl | rfl <;> exact Iff.rfl

theorem IsMatch.executed_eq {i : Instr} {lit mlen off : Nat} (h : IsMatch i lit mlen off) (s : State) :
    executed i s = matchCopied lit mlen off s := by
  rcases h with rfl | rfl | rfl <;> rfl

/-! ## The obligations -/

/-- Settles O9: a match token passes its checks exactly when it is in bounds (`Past.matchFits_iff`), and then has its
effect (`Past.matchEffect`). -/
theorem matchTokensExecute : Obligations.MatchTokensExecute := by
  intro lit mlen off s hm h0
  have hfits := (Past.refl s).matchFits_iff (lit := lit) (off := off) hm
  refine ⟨fun hb => ?_, fun hb => ?_⟩
  · have hexec {i : Instr} (hi : IsMatch i lit mlen off) : exec i s = .next (matchCopied lit mlen off s) := by
      rw [exec_ok ((hi.tokenFits_iff s).2 (hfits.2 hb)), hi.executed_eq]
    exact ⟨_, hexec (.inl rfl), hexec (.inr (.inl rfl)), hexec (.inr (.inr rfl)),
      (Past.refl s).matchEffect h0 hb.2.1, rfl⟩
  · have hexec {i : Instr} (hi : IsMatch i lit mlen off) : exec i s = .next (raise .corrupt s) :=
      exec_error fun hf => hb (hfits.1 ((hi.tokenFits_iff s).1 hf))
    exact ⟨hexec (.inl rfl), hexec (.inr (.inl rfl)), hexec (.inr (.inr rfl))⟩

/-- Settles O10: a RawRun is a literal copy that is not empty. -/
theorem rawRunExecutes : Obligations.RawRunExecutes := by
  intro len s hlen
  have hfits : TokenFits (.rawRun len) s ↔ s.ip + len ≤ s.srcLen ∧ s.wp + len ≤ s.size :=
    (Past.refl s).literalsFit_iff hlen
  refine ⟨fun hi hw => ⟨_, exec_ok (hfits.2 ⟨hi, hw⟩), ?_, rfl⟩, fun h => exec_error fun hf => ?_⟩
  · exact ((Past.refl s).withLit len).literalEffect len
  · have := hfits.1 hf
    omega

theorem terminalFits_full {lit : Nat} {s : State} (h : s.size ≤ s.wp) : TokenFits (.terminal lit) s :=
  fun hlt => absurd hlt (Nat.not_lt.2 h)

theorem executed_terminal_full {lit : Nat} {s : State} (h : s.size ≤ s.wp) :
    executed (.terminal lit) s = markDone s :=
  if_neg (Nat.not_lt.2 h)

theorem executed_terminal_read {lit : Nat} {s : State} (h : s.wp < s.size) :
    executed (.terminal lit) s = markDone (literalsCopied lit { s with ip := s.ip + 1, lit := lit }) :=
  if_pos h

/-- The checks of a Terminal, its control byte counted to the stream (43 R170, R180). -/
theorem terminalFits_iff {lit : Nat} {s : State} (h : s.wp < s.size) :
    TokenFits (.terminal lit) s ↔ LiteralsThere s 1 lit ∧ s.wp + lit ≤ s.size := by
  rw [← (past_nextByte s).literalsFit_iff_there (Nat.le_of_lt h)]
  exact forall_prop_of_true h

/-- Settles O11: with the output full a Terminal only ends the loop; otherwise it is a literal copy past its control
byte. -/
theorem terminalExecutes : Obligations.TerminalExecutes := by
  refine fun lit s => ⟨fun h => ?_, fun h hl hw => ?_, fun h hn => ?_⟩
  · rw [exec_ok (terminalFits_full h), executed_terminal_full h]
    rfl
  · refine ⟨_, (exec_ok ((terminalFits_iff h).2 ⟨hl, hw⟩)).trans (congrArg _ (executed_terminal_read h)), ?_, rfl⟩
    exact (literalEffect_markDone ..).2 (((past_nextByte s).withLit lit).literalEffect lit)
  · exact exec_error (mt (terminalFits_iff h).1 hn)

end Sys2Proof.Machine

/-! SUPPORT. A step of the token loop from its control bytes to its effect or its failure (43 R165 to R170): the token
that the bytes at `ip` spell, and what the step makes of it, kind by kind: O14 to O18. -/

namespace Sys2Proof.Machine

/-! ## The token at `ip` -/

/-- The token that the control bytes at `ip` spell, if they are those of a `k` (30 R80). -/
def unpackedAt (k : Kind) (s : State) : Instr :=
  match k with
  | .shortMatch => unpackShort (controlByte s 0) (controlByte s 1)
  | .mediumMatch => unpackMedium (controlByte s 0) (controlByte s 1) (controlByte s 2)
  | .longMatch => unpackLong (controlByte s 0) (controlByte s 1) (controlByte s 2) (controlByte s 3)
  | .rawRun => unpackRaw (controlByte s 0)
  | .terminal => unpackTerminal (controlByte s 0)

theorem unpackedAt_kind (k : Kind) (s : State) : (unpackedAt k s).kind = k := by
  cases k <;> rfl

/-- The stream starts with the control bytes of a kind, if it is long enough. -/
theorem restOfStream_eq_append {s : State} {c : Nat} (h : s.ip + c ≤ s.srcLen) :
    ∃ rest, restOfStream s = Memory.slice s.src s.ip c ++ rest := by
  rw [restOfStream, show s.srcLen - s.ip = c + (s.srcLen - s.ip - c) by omega, Memory.slice_add]
  exact ⟨_, rfl⟩

/-- The stream decodes to the token of the kind that its first byte selects (43 R165). -/
theorem decode_unpackedAt {s : State} {k : Kind} (hk : kindOf (controlByte s 0) = k)
    (hc : s.ip + k.controlBytes ≤ s.srcLen) : ∃ rest, decode (restOfStream s) = .ok (unpackedAt k s, rest) := by
  obtain ⟨rest, hrest⟩ := restOfStream_eq_append hc
  refine ⟨rest, ?_⟩
  have hk' : kindOf (Memory.read s.src s.ip) = k := hk
  rw [hrest]
  cases k <;> simp only [Kind.controlBytes, Memory.slice, List.cons_append, List.nil_append, decode, hk'] <;> rfl

/-- What decodes is of the kind that the first byte selects. -/
theorem kind_of_decode {b0 : Byte} {bs rest : List Byte} {i : Instr} (h : decode (b0 :: bs) = .ok (i, rest)) :
    i.kind = kindOf b0 := by
  obtain ⟨cs, hs, hcs⟩ := spells_of_decode h
  cases hs with
  | shortMatch hb | mediumMatch hb | longMatch hb | rawRun hb | terminal hb =>
    cases hcs
    exact hb.1.symm

/-! ## The step -/

section
variable {s : State}

theorem step_token_corrupt {i : Instr} {rest : List Byte} (hs : Fetching s)
    (h : decode (restOfStream s) = .ok (i, rest)) (hf : ¬TokenFits i (fetched i.kind s)) :
    step s = .next (raise .corrupt s) := by
  rw [step_fetching hs, tokenStep_decoded h, exec_error hf, endToken_raise, raise_fetched]

/-- A step whose stream ends inside the control bytes raises Corrupt (43 R161, 60 R193 b). -/
theorem step_cutShort (hs : Fetching s) (hip : s.ip < s.srcLen)
    (hc : s.srcLen < s.ip + (kindOf (controlByte s 0)).controlBytes) : step s = .next (raise .corrupt s) := by
  rw [step_fetching hs]
  cases hd : decode (restOfStream s) with
  | error e => exact tokenStep_rejected hd
  | ok d =>
    obtain ⟨i, rest⟩ := d
    have hlen := decode_length hd
    rw [restOfStream_cons hip] at hd
    have hk : i.kind = kindOf (controlByte s 0) := kind_of_decode hd
    rw [restOfStream, Memory.slice_length, hk] at hlen
    omega

/-- A step whose first byte selects `k`: it completes the token when all its bytes are there and its checks pass, and
raises Corrupt otherwise (43 R165). -/
theorem step_of_kind {k : Kind} (hs : Fetching s) (hip : s.ip < s.srcLen) (hk : kindOf (controlByte s 0) = k) :
    (s.ip + k.controlBytes ≤ s.srcLen → TokenFits (unpackedAt k s) (fetched k s) →
      step s = .next (tokenDone (unpackedAt k s) s)) ∧
    (¬(s.ip + k.controlBytes ≤ s.srcLen ∧ TokenFits (unpackedAt k s) (fetched k s)) →
      step s = .next (raise .corrupt s)) := by
  have hkind := unpackedAt_kind k s
  refine ⟨fun hc hf => ?_, fun hn => ?_⟩
  · obtain ⟨rest, hd⟩ := decode_unpackedAt hk hc
    exact step_token hs hd (hkind.symm ▸ hf)
  · by_cases hc : s.ip + k.controlBytes ≤ s.srcLen
    · obtain ⟨rest, hd⟩ := decode_unpackedAt hk hc
      exact step_token_corrupt hs hd (hkind.symm ▸ fun hf => hn ⟨hc, hf⟩)
    · exact step_cutShort hs hip (by rw [hk]; omega)

/-- A token of the loop leaves it running (43 R165). -/
theorem tokenDone_running {i : Instr} (hs : Fetching s) (hk : i.kind ≠ .terminal) :
    (tokenDone i s).dstate = .running :=
  (tokenDone_fetching hs hk).2.2

/-! ## Match tokens, one step -/

/-- A match token, from its control bytes to its effect or its failure. -/
theorem match_steps {k : Kind} {lit mlen off : Nat} (hs : Fetching s) (hip : s.ip < s.srcLen)
    (hk : kindOf (controlByte s 0) = k) (hi : IsMatch (unpackedAt k s) lit mlen off) (hm : 0 < mlen) (h0 : 0 < off) :
    (s.ip + k.controlBytes ≤ s.srcLen → MatchInBounds s k.controlBytes lit mlen off →
      ∃ t, step s = .next t ∧ MatchEffect s t k.controlBytes lit mlen off ∧ t.dstate = .running ∧ TokenFrame s t) ∧
    (¬(s.ip + k.controlBytes ≤ s.srcLen ∧ MatchInBounds s k.controlBytes lit mlen off) →
      step s = .next (raise .corrupt s)) := by
  have hkind := unpackedAt_kind k s
  have hne : (unpackedAt k s).kind ≠ .terminal := by
    rcases hi with h | h | h <;> rw [h] <;> exact nofun
  have hloop : k ≠ .terminal := hkind ▸ hne
  have hfits : TokenFits (unpackedAt k s) (fetched k s) ↔ MatchInBounds s k.controlBytes lit mlen off :=
    (hi.tokenFits_iff _).trans ((fetched_past hloop s).matchFits_iff hm)
  obtain ⟨hok, hbad⟩ := step_of_kind hs hip hk
  rw [hfits] at hok hbad
  refine ⟨fun hc hb => ⟨_, hok hc hb, ?_, tokenDone_running hs hne, tokenDone_frame _ s⟩, hbad⟩
  rw [tokenDone, matchEffect_dropTokenTemps, hkind, hi.executed_eq]
  exact (fetched_past hloop s).matchEffect h0 hb.2.1

end

/-- Settles O14: the fields are those of `unpackShort`, the rest is `match_steps`. -/
theorem shortMatchSteps : Obligations.ShortMatchSteps := by
  intro s hs hip hb lit mlen off
  have hk : kindOf (controlByte s 0) = .shortMatch := (kindOf_eq_iff _ _).2 ⟨Nat.zero_le _, hb⟩
  exact match_steps hs hip hk (.inl (unpackShort_eq ..)) (Nat.succ_pos _) (Nat.succ_pos _)

/-- Settles O15: the fields are those of `unpackMedium`, the rest is `match_steps`. -/
theorem mediumMatchSteps : Obligations.MediumMatchSteps := by
  intro s hs hip hlo hhi lit mlen off
  have hk : kindOf (controlByte s 0) = .mediumMatch := (kindOf_eq_iff _ _).2 ⟨hlo, hhi⟩
  have hlit : (controlByte s 1).toNat / 64 % 4 = lit := Nat.mod_eq_of_lt (Nat.div_lt_of_lt_mul (controlByte s 1).isLt)
  have hi : unpackedAt .mediumMatch s = .mediumMatch lit mlen off := by
    rw [← hlit]
    exact unpackMedium_eq ..
  exact match_steps hs hip hk (.inr (.inl hi)) (Nat.succ_pos _) (Nat.succ_pos _)

/-- Settles O16: the fields are those of `unpackLong`, the rest is `match_steps`. -/
theorem longMatchSteps : Obligations.LongMatchSteps := by
  intro s hs hip hlo hhi lit mlen off
  have hk : kindOf (controlByte s 0) = .longMatch := (kindOf_eq_iff _ _).2 ⟨hlo, hhi⟩
  have hi : unpackedAt .longMatch s = .longMatch lit mlen off := by
    simp only [off, Nat.mul_comm (streamByte s 1) 256]
    exact unpackLong_eq ..
  exact match_steps hs hip hk (.inr (.inr hi)) (Nat.succ_pos _) (Nat.succ_pos _)

/-! ## RawRun and Terminal, one step -/

/-- Settles O17: the length is that of `unpackRaw`, and the literals come right behind the control byte. -/
theorem rawRunSteps : Obligations.RawRunSteps := by
  intro s hs hip hlo hhi len
  have hk : kindOf (controlByte s 0) = .rawRun := (kindOf_eq_iff _ _).2 ⟨hlo, hhi⟩
  have hi : unpackedAt .rawRun s = .rawRun len := by
    have hmod : streamByte s 0 % 32 = streamByte s 0 - 0xE0 := by omega
    simp only [len, ← hmod]
    exact unpackRaw_eq _
  have hpast := fetched_past (k := .rawRun) nofun s
  have hfits : TokenFits (unpackedAt .rawRun s) (fetched .rawRun s) ↔
      s.ip + 1 + len ≤ s.srcLen ∧ s.wp + len ≤ s.size := by
    rw [hi]
    exact hpast.literalsFit_iff (Nat.succ_pos _)
  obtain ⟨hok, hbad⟩ := step_of_kind hs hip hk
  rw [hfits] at hok hbad
  refine ⟨fun hf => ⟨_, hok hip hf, ?_, tokenDone_running hs (by rw [hi]; exact nofun), tokenDone_frame _ s⟩,
    fun hn => hbad fun h => hn h.2⟩
  rw [hi, tokenDone, literalEffect_dropTokenTemps]
  exact (hpast.withLit len).literalEffect len

/-- Settles O18: the literal count is that of `unpackTerminal`; `byte0` is only looked at, so the three cases are those
of the token from `s`. -/
theorem terminalSteps : Obligations.TerminalSteps := by
  intro s hs hip hlo lit
  have hk : kindOf (controlByte s 0) = .terminal := (kindOf_eq_iff _ _).2 ⟨hlo, (controlByte s 0).isLt⟩
  have hi : unpackedAt .terminal s = .terminal lit := unpackTerminal_eq _
  obtain ⟨hok, hbad⟩ := step_of_kind hs hip hk
  rw [hi] at hok hbad
  have hdone : (tokenDone (.terminal lit) s).dstate = .done := executed_fetched_dstate (.terminal lit) s
  have hframe := tokenDone_frame (.terminal lit) s
  refine ⟨fun hw => ?_, fun hw hf => ?_, fun hw hn => ?_⟩
  · have hfull : tokenDone (.terminal lit) s = dropTokenTemps (markDone (fetched .terminal s)) :=
      congrArg dropTokenTemps (executed_terminal_full hw)
    refine ⟨_, hok hip (terminalFits_full hw), ?_, ?_, ?_, hdone, hframe⟩
    all_goals
      rw [hfull]
      rfl
  · refine ⟨_, hok hip ((terminalFits_iff (s := fetched .terminal s) hw).2 hf), ?_, hdone, hframe⟩
    rw [tokenDone, literalEffect_dropTokenTemps, Instr.kind, executed_terminal_read (s := fetched .terminal s) hw,
      literalEffect_markDone]
    exact ((past_nextByte (fetched .terminal s)).withLit lit).literalEffect lit
  · exact hbad fun h => hn ((terminalFits_iff (s := fetched .terminal s) hw).1 h.2)

end Sys2Proof.Machine

/-! SUPPORT. Every step of DECOMPRESS as one of three, the decoded token, Corrupt or the final check, and how far a
token moves the two cursors (43 R165, R171, R172, R178, R183): O13 and O19 to O22. -/

namespace Sys2Proof.Machine

/-! ## A step runs the decoded token (43 R165, R172, R178) -/

/-- Settles O13: the stream decodes to the token whose encoding stands at `ip`, and fetching it is one update. -/
theorem stepRunsToken : Obligations.StepRunsToken := by
  intro s i hs hwf hc henc
  obtain ⟨rest, hrest⟩ := restOfStream_eq_append hc
  rw [henc] at hrest
  have hd : decode (restOfStream s) = .ok (i, rest) := (congrArg decode hrest).trans (decodeOfEncode i rest hwf)
  refine ⟨(step_fetching hs).trans (tokenStep_decoded hd), fun hk => ⟨?_, ?_⟩, fun hk => ⟨?_, ?_⟩, ?_,
    fetched_frame i.kind s, fetched_wp i.kind s, fetched_dst i.kind s⟩
  · rw [fetched_ip, if_neg hk]
  · cases i with
    | terminal => exact absurd rfl hk
    | _ => rfl
  · rw [fetched_ip, if_pos hk, Nat.add_zero]
  · rw [hk]
    rfl
  · cases i <;> rfl

/-- Settles O21: the stream left is empty, and no token decodes from it. -/
theorem missingTerminalIsCorrupt : Obligations.MissingTerminalIsCorrupt := by
  intro s hs hip
  have hd : decode (restOfStream s) = .error .noControlByte := congrArg decode (restOfStream_nil hip)
  exact (step_fetching hs).trans (tokenStep_rejected hd)

theorem step_done {s : State} (hp : s.port = none) (ho : s.op = .decompress) (hd : s.dstate = .done) :
    step s = finalCheck s := by
  simp only [step, decompressStep, hp, ho, hd]

/-- Settles O22: after the Terminal the step is `finalCheck`, and `complete` writes `op`, `status` and `err` only. -/
theorem finalCheckDecides : Obligations.FinalCheckDecides := by
  intro s hp ho hd
  have hstep := step_done hp ho hd
  exact ⟨fun h => hstep.trans (if_neg h), fun h => ⟨_, hstep.trans (if_pos h), rfl, rfl⟩⟩

/-! ## The cursors (43 R171, R183) -/

/-- A completed token moves `ip` by its control and literal bytes, a Terminal met with the output full by nothing
(43 R171). -/
theorem tokenDone_ip (i : Instr) (s : State) :
    (tokenDone i s).ip =
      s.ip + if i.kind = .terminal ∧ s.size ≤ s.wp then 0 else i.kind.controlBytes + i.literals := by
  cases i with
  | terminal lit =>
    rw [tokenDone, dropTokenTemps_ip, Instr.kind]
    by_cases h : s.size ≤ s.wp
    · rw [executed_terminal_full (s := fetched .terminal s) h, if_pos ⟨rfl, h⟩]
      rfl
    · rw [executed_terminal_read (s := fetched .terminal s) (Nat.lt_of_not_le h), if_neg fun hk => h hk.2]
      exact Nat.add_assoc s.ip 1 lit
  | _ =>
    rw [if_neg fun hk => nomatch hk.1]
    exact Nat.add_assoc s.ip _ _

/-- A completed token of the loop moves `wp` by the bytes it produces (30 R79). -/
theorem tokenDone_wp {i : Instr} (s : State) (hk : i.kind ≠ .terminal) :
    (tokenDone i s).wp = s.wp + i.produced := by
  cases i with
  | terminal => exact absurd rfl hk
  | rawRun => rfl
  | _ => exact Nat.add_assoc s.wp _ _

/-- A token of the loop takes at least 2 bytes and produces at least 3 (30 R79). -/
theorem two_le_taken_three_le_produced {i : Instr} (hwf : i.wf = true) (hk : i.kind ≠ .terminal) :
    2 ≤ i.kind.controlBytes + i.literals ∧ 3 ≤ i.produced := by
  cases i with
  | terminal => exact absurd rfl hk
  | _ =>
    simp only [Instr.wf_shortMatch, Instr.wf_mediumMatch, Instr.wf_longMatch, Instr.wf_rawRun] at hwf
    simp only [Instr.kind, Kind.controlBytes, Instr.literals, Instr.produced]
    omega

/-- A pass of the loop raises Corrupt, or completes the decoded token (43 R165). -/
theorem step_fetching_cases {s : State} (hs : Fetching s) :
    step s = .next (raise .corrupt s) ∨
    ∃ i rest, decode (controlWindow s) = .ok (i, rest) ∧ TokenFits i (fetched i.kind s) ∧
      step s = .next (tokenDone i s) := by
  rw [step_fetching hs]
  exact tokenStep_cases hs.2.1

/-- A pass that goes on with the operation has completed the decoded token. -/
theorem token_of_step {s t : State} (hs : Fetching s) (h : step s = .next t) (ho : t.op = .decompress) :
    ∃ i rest, decode (controlWindow s) = .ok (i, rest) ∧ t = tokenDone i s := by
  obtain hr | ⟨i, rest, hd, -, hn⟩ := step_fetching_cases hs
  · cases hr.symm.trans h
    cases ho
  · cases hn.symm.trans h
    exact ⟨i, rest, hd, rfl⟩

/-- Settles O19: by `tokenDone_ip`. -/
theorem ipAdvancesByTokenLength : Obligations.IpAdvancesByTokenLength := by
  intro s t hs h ho
  obtain ⟨i, rest, hd, rfl⟩ := token_of_step hs h ho
  exact ⟨i, rest, hd, tokenDone_ip i s⟩

/-- A completed token of the loop moves both cursors on (43 R183). -/
theorem tokenDone_progress {s : State} {i : Instr} {rest : List Byte} (hd : decode (controlWindow s) = .ok (i, rest))
    (hk : i.kind ≠ .terminal) : s.ip + 2 ≤ (tokenDone i s).ip ∧ s.wp + 3 ≤ (tokenDone i s).wp := by
  obtain ⟨htaken, hproduced⟩ := two_le_taken_three_le_produced (encodeOfDecode _ _ _ hd).1 hk
  rw [tokenDone_ip, tokenDone_wp s hk, if_neg fun h => hk h.1]
  exact ⟨Nat.add_le_add_left htaken _, Nat.add_le_add_left hproduced _⟩

theorem tokenDone_dstate (i : Instr) (s : State) :
    (tokenDone i s).dstate = if i.kind = .terminal then .done else s.dstate :=
  executed_fetched_dstate i s

/-- Settles O20: a step that stays in the loop has completed a token other than a Terminal (`tokenDone_progress`). -/
theorem loopProgress : Obligations.LoopProgress := by
  intro s t hs h ho hr
  obtain ⟨i, rest, hd, rfl⟩ := token_of_step hs h ho
  refine tokenDone_progress hd fun hk => ?_
  rw [tokenDone_dstate, if_pos hk] at hr
  cases hr

end Sys2Proof.Machine

/-! SUPPORT. What a step of DECOMPRESS keeps of the bytes written, and what it reads of SRC (43 R163, R179): O35 and
O39. -/

namespace Sys2Proof.Machine

/-! ## The bytes written (43 R163) -/

/-- The output has grown within its declared size, and keeps what it held. -/
structure OutputGrows (s t : State) : Prop where
  wp : s.wp ≤ t.wp
  room : t.wp ≤ t.size
  size : t.size = s.size
  kept : ∀ a, a < s.wp → Memory.read t.dst a = Memory.read s.dst a

theorem OutputGrows.trans {s t u : State} (h : OutputGrows s t) (k : OutputGrows t u) : OutputGrows s u where
  wp := h.wp.trans k.wp
  room := k.room
  size := k.size.trans h.size
  kept a ha := (k.kept a (ha.trans_le h.wp)).trans (h.kept a ha)

theorem OutputGrows.of_eq {s t : State} (hr : s.wp ≤ s.size) (hw : t.wp = s.wp) (hs : t.size = s.size)
    (hd : t.dst = s.dst) : OutputGrows s t :=
  ⟨hw.ge, hw ▸ hs ▸ hr, hs, fun _ _ => by rw [hd]⟩

theorem literalsCopied_outputGrows {k : Nat} {s : State} (hr : s.wp ≤ s.size) (hf : LiteralsFit k s) :
    OutputGrows s (literalsCopied k s) where
  wp := Nat.le_add_right ..
  room := hf.elim (fun hk => by subst hk; exact hr) And.right
  size := rfl
  kept a ha := (Memory.read_writeBytes ..).trans (if_neg fun h => Nat.not_le.2 ha h.1)

theorem read_backFill_below {off k wp a : Nat} {m : Memory} (h : a < wp) :
    Memory.read (backFill off k wp m) a = Memory.read m a := by
  induction k generalizing wp m with
  | zero => rfl
  | succ k ih => rw [backFill, ih (Nat.lt_succ_of_lt h), Memory.read_write_ne _ _ (Nat.ne_of_lt h)]

theorem backCopied_outputGrows {len off : Nat} {s : State} (hr : s.wp ≤ s.size) (hf : BackFits len off s) :
    OutputGrows s (backCopied len off s) where
  wp := Nat.le_add_right ..
  room := hf.2.elim (fun hk => by subst hk; exact hr) id
  size := rfl
  kept _ := read_backFill_below

/-- Every token whose checks pass extends the output (43 R173, R174, R176). -/
theorem executed_outputGrows {i : Instr} {s : State} (hr : s.wp ≤ s.size) (hf : TokenFits i s) :
    OutputGrows s (executed i s) := by
  have hm {lit mlen off : Nat} (hf : MatchFits lit mlen off s) : OutputGrows s (matchCopied lit mlen off s) := by
    have hs : OutputGrows s { s with lit := lit, mlen := mlen, off := off } := .of_eq hr rfl rfl rfl
    have hl := hs.trans (literalsCopied_outputGrows hs.room hf.1)
    exact hl.trans (backCopied_outputGrows hl.room hf.2)
  cases i with
  | shortMatch => exact hm hf
  | mediumMatch => exact hm hf
  | longMatch => exact hm hf
  | rawRun len =>
    have hs : OutputGrows s { s with lit := len } := .of_eq hr rfl rfl rfl
    exact hs.trans (literalsCopied_outputGrows hs.room hf)
  | terminal lit =>
    by_cases hw : s.wp < s.size
    · rw [executed_terminal_read hw]
      have hs : OutputGrows s { s with ip := s.ip + 1, lit := lit } := .of_eq hr rfl rfl rfl
      have hl := hs.trans (literalsCopied_outputGrows hs.room (hf hw))
      exact hl.trans (.of_eq hl.room rfl rfl rfl)
    · rw [executed_terminal_full (Nat.le_of_not_lt hw)]
      exact .of_eq hr rfl rfl rfl

/-- The next state of a step of DECOMPRESS: Corrupt, the success, or a token that has passed its checks, with or without
a fetch before it (43 R165, R170, R172). -/
theorem decompressStep_executed {s t : State} (ho : s.op = .decompress) (h : decompressStep s = .next t) :
    t = raise .corrupt s ∨ t = complete s ∨
    ∃ i u, (u = s ∨ ∃ k, u = fetched k s) ∧ TokenFits i u ∧ t = dropTokenTemps (executed i u) := by
  rw [decompressStep] at h
  split at h
  · obtain hr | ⟨i, rest, -, hf, hn⟩ := tokenStep_cases ho
    · cases hr.symm.trans h
      exact .inl rfl
    · cases hn.symm.trans h
      exact .inr (.inr ⟨i, _, .inr ⟨_, rfl⟩, hf, rfl⟩)
  · by_cases hf : TokenFits (unpackTerminal s.b0) s
    · rw [exec_ok hf, endToken_running ((executed_op _ s).trans ho)] at h
      cases h
      exact .inr (.inr ⟨_, s, .inl rfl, hf, rfl⟩)
    · rw [exec_error hf, endToken_raise] at h
      cases h
      exact .inl rfl
  · rw [finalCheck] at h
    split at h <;> cases h
    · exact .inr (.inl rfl)
    · exact .inl rfl

theorem step_decompress {s : State} (hp : s.port = none) (ho : s.op = .decompress) : step s = decompressStep s := by
  simp only [step, hp, ho]

/-- Settles O35: fetching writes no output, a token extends it (`executed_outputGrows`), and a success keeps it. -/
theorem outputNeverRewritten : Obligations.OutputNeverRewritten := by
  intro s t hp ho hr h hn
  have hgrows : OutputGrows s t := by
    obtain rfl | rfl | ⟨i, u, hu, hf, rfl⟩ := decompressStep_executed ho ((step_decompress hp ho).symm.trans h)
    · exact absurd rfl hn
    · exact .of_eq hr rfl rfl rfl
    · have hs : OutputGrows s u := by
        obtain rfl | ⟨k, rfl⟩ := hu
        · exact .of_eq hr rfl rfl rfl
        · exact .of_eq hr (fetched_wp k s) (by rw [fetched_frame k s]) (fetched_dst k s)
      have he := hs.trans (executed_outputGrows hs.room hf)
      exact he.trans (.of_eq he.room rfl rfl rfl)
  exact ⟨hgrows.wp, hgrows.room, hgrows.size, hgrows.kept⟩

/-! ## The bytes read (43 R179) -/

/-- The machine with `m` as its SRC. -/
def withSrc (m : Memory) (s : State) : State := { s with src := m }

/-- `m` agrees with SRC from `ip` on. -/
def AgreesAhead (m : Memory) (s : State) : Prop := ∀ a, s.ip ≤ a → Memory.read m a = Memory.read s.src a

section
variable {m : Memory} {s : State}

theorem AgreesAhead.slice_eq (h : AgreesAhead m s) (k : Nat) : Memory.slice m s.ip k = Memory.slice s.src s.ip k :=
  Memory.slice_congr fun _ _ => h _ (Nat.le_add_right ..)

theorem AgreesAhead.literalsCopied_eq (h : AgreesAhead m s) (k : Nat) :
    literalsCopied k (withSrc m s) = withSrc m (literalsCopied k s) := by
  simp only [literalsCopied, withSrc, h.slice_eq]

/-- A token that completes reads no byte of SRC before `ip` (43 R173, R179). -/
theorem AgreesAhead.executed_eq (h : AgreesAhead m s) (i : Instr) :
    executed i (withSrc m s) = withSrc m (executed i s) := by
  have hm (lit mlen off : Nat) : matchCopied lit mlen off (withSrc m s) = withSrc m (matchCopied lit mlen off s) :=
    congrArg (backCopied mlen off)
      (AgreesAhead.literalsCopied_eq (s := { s with lit := lit, mlen := mlen, off := off }) h lit)
  cases i with
  | shortMatch => exact hm ..
  | mediumMatch => exact hm ..
  | longMatch => exact hm ..
  | rawRun len => exact AgreesAhead.literalsCopied_eq (s := { s with lit := len }) h len
  | terminal lit =>
    have hl := AgreesAhead.literalsCopied_eq (s := { s with ip := s.ip + 1, lit := lit })
      (fun a ha => h a (Nat.le_of_succ_le ha)) lit
    rw [executed, executed, apply_ite (withSrc m)]
    exact congrArg (ite _ · _) (congrArg markDone hl)

theorem AgreesAhead.exec_eq (h : AgreesAhead m s) (i : Instr) :
    exec i (withSrc m s) = mapNext (withSrc m) (exec i s) := by
  have hfits : TokenFits i (withSrc m s) ↔ TokenFits i s := by cases i <;> exact Iff.rfl
  by_cases hf : TokenFits i s
  · rw [exec_ok hf, exec_ok (hfits.2 hf), h.executed_eq]
    rfl
  · rw [exec_error hf, exec_error (mt hfits.1 hf)]
    rfl

theorem AgreesAhead.fetched_eq (h : AgreesAhead m s) (k : Kind) :
    fetched k (withSrc m s) = withSrc m (fetched k s) := by
  have hbyte (j : Nat) : controlByte (withSrc m s) j = controlByte s j := h _ (Nat.le_add_right ..)
  cases k <;> simp only [fetched, hbyte] <;> rfl

theorem AgreesAhead.fetched_ahead (h : AgreesAhead m s) (k : Kind) : AgreesAhead m (fetched k s) := by
  intro a ha
  rw [fetched_ip] at ha
  rw [h a (by omega), fetched_frame k s]

theorem endToken_withSrc (m : Memory) (o : Host.Outcome State Fault Refusal) :
    endToken (mapNext (withSrc m) o) = mapNext (withSrc m) (endToken o) := by
  cases o with
  | next t => exact congrArg Host.Outcome.next (apply_ite (withSrc m) (t.op = .decompress) (dropTokenTemps t) t).symm
  | fault => rfl
  | refused => rfl

/-- A pass of the loop is the same with any SRC that agrees from `ip` on. -/
theorem AgreesAhead.tokenStep_eq (h : AgreesAhead m s) :
    tokenStep (withSrc m s) = mapNext (withSrc m) (tokenStep s) := by
  have hw : controlWindow (withSrc m s) = controlWindow s := h.slice_eq _
  rw [tokenStep, tokenStep, hw]
  split
  · rfl
  · rw [h.fetched_eq, (h.fetched_ahead _).exec_eq, endToken_withSrc]

theorem finalCheck_withSrc (m : Memory) (s : State) :
    finalCheck (withSrc m s) = mapNext (withSrc m) (finalCheck s) := by
  rw [finalCheck, finalCheck, apply_ite (mapNext (withSrc m))]
  rfl

end

/-- Settles O39: while tokens are read the step commutes with a SRC that agrees from `ip` on, the final check with
any. -/
theorem bytesBehindAndAfterIgnored : Obligations.BytesBehindAndAfterIgnored := by
  intro s t m hp ho h hcase
  have hstep : step (withSrc m s) = mapNext (withSrc m) (step s) := by
    obtain ⟨hd, hagree⟩ | hd := hcase
    · have hfetch : Fetching s := ⟨hp, ho, hd⟩
      rw [step_fetching hfetch, step_fetching (s := withSrc m s) hfetch]
      exact AgreesAhead.tokenStep_eq hagree
    · rw [step_done hp ho hd, step_done (s := withSrc m s) hp ho hd]
      exact finalCheck_withSrc m s
  exact hstep.trans (congrArg (mapNext (withSrc m)) h)

end Sys2Proof.Machine

/-! SUPPORT. DECOMPRESS ends, in a number of steps bounded by the bytes left (43 R182, R183, 70 R242): O36. -/

namespace Sys2Proof.Machine

/-- After `k` steps no operation runs. -/
def EndsWithin (k : Nat) (s : State) : Prop := ∃ t, Sys2Proof.core.run k s = .next t ∧ t.op = .idle

theorem EndsWithin.head {k : Nat} {s t : State} (h : step s = .next t) (hk : EndsWithin k t) :
    EndsWithin (k + 1) s := by
  obtain ⟨u, hu, ho⟩ := hk
  exact ⟨u, (run_succ h k).trans hu, ho⟩

/-- An idle block without a command stays idle (60 R211). -/
theorem endsWithin_of_idle {s : State} (hp : s.port = none) (ho : s.op = .idle) (k : Nat) : EndsWithin k s := by
  have hstep : step s = .next s := by simp only [step, hp, ho]
  induction k with
  | zero => exact ⟨s, rfl, ho⟩
  | succ k ih => exact .head hstep ih

theorem endsWithin_raise {s : State} (hp : s.port = none) (e : Failure) (k : Nat) : EndsWithin k (raise e s) :=
  endsWithin_of_idle (s := raise e s) hp rfl k

/-- The final check ends the operation, either way (43 R172). -/
theorem done_endsWithin {s : State} (hp : s.port = none) (ho : s.op = .decompress) (hd : s.dstate = .done) (k : Nat) :
    EndsWithin (k + 1) s := by
  have hstep := step_done hp ho hd
  rw [finalCheck] at hstep
  split at hstep
  · exact .head hstep (endsWithin_of_idle (s := complete s) hp rfl k)
  · exact .head hstep (endsWithin_raise hp _ k)

/-- Every pass of the loop takes at least 2 of the bytes left, and one step more is the Terminal or a failure, another
the final check (43 R183). -/
theorem fetching_endsWithin {k : Nat} {s : State} (hs : Fetching s) (hok : DecoderOk s)
    (hk : (s.srcLen - s.ip) / 2 + 2 ≤ k) : EndsWithin k s := by
  induction k generalizing s with
  | zero => omega
  | succ k ih =>
    obtain hr | ⟨i, rest, hd, hf, hn⟩ := step_fetching_cases hs
    · exact .head hr (endsWithin_raise hs.1 _ k)
    · refine .head hn ?_
      have hframe := tokenDone_frame i s
      by_cases hterm : i.kind = .terminal
      · obtain ⟨j, rfl⟩ : ∃ j, k = j + 1 := ⟨k - 1, by omega⟩
        refine done_endsWithin ?_ ?_ ((tokenDone_dstate i s).trans (if_pos hterm)) j
        · rw [hframe]
          exact hs.1
        · rw [hframe]
          exact hs.2.1
      · have hok' : DecoderOk (tokenDone i s) := token_decoderOk ((decoderOk_iff s).1 hok).1 hs.2.2 hd hf
        have hlen : (tokenDone i s).srcLen = s.srcLen := by rw [hframe]
        have hprogress := (tokenDone_progress hd hterm).1
        have hip := hok'.ip
        exact ih (tokenDone_fetching hs hterm) hok' (by omega)

/-- Settles O36: the loop ends within the bound (`fetching_endsWithin`), and after the Terminal one step is left. -/
theorem decompressEnds : Obligations.DecompressEnds := by
  intro s hp ho hok
  cases hd : s.dstate with
  | running => exact fetching_endsWithin ⟨hp, ho, hd⟩ hok (Nat.le_refl _)
  | terminalRead => exact absurd hd hok.dstate
  | done => exact done_endsWithin hp ho hd _

end Sys2Proof.Machine

/-! SUPPORT. The ends of an operation and the acts refused (60 R190 to R200, R212, 70 R227): O23, O26, O27 and O31. -/

namespace Sys2Proof.Machine

/-! ## What a failure keeps (60 R197) -/

/-- Settles O23: `discardWork` keeps of a state SRC, the port, `HDR_EXT_LEN` and what the drawing gives, and `raise`
writes the rest. -/
theorem raiseDiscardsOperation : Obligations.RaiseDiscardsOperation := by
  refine fun e s => ⟨rfl, rfl, rfl, rfl, fun t hsrc hport hext hdraw => ?_⟩
  simp only [raise, discardWork, hsrc, hport, hext, hdraw]

/-! ## Which step raises a failure (60 R190, R191, R194) -/

theorem latch_status (c : StartCmd) (s : State) : (latch c s).status = .busy := (latch_latched c s).status

theorem step_act {s : State} {a : HostAct} (h : s.port = some a) : step s = hostStep a s := by
  simp only [step, h]

/-- A start of COMPRESS fails on the length only (42 R130). -/
theorem startCompress_fails {s t : State} (hs : s.status = .busy) (h : startCompress s = .next t)
    (hf : t.status = .failed) : 0xFFFFFF < s.srcLen ∧ t = raise .inputTooLarge s := by
  by_cases hlen : 0xFFFFFF < s.srcLen
  · cases (startCompress_tooLarge hlen).symm.trans h
    exact ⟨hlen, rfl⟩
  · cases (startCompress_ok (Nat.le_of_not_lt hlen)).symm.trans h
    cases hs.symm.trans hf

/-- A start of DECOMPRESS fails with one of two names (40 R102, R103). -/
theorem startDecompress_fails {s t : State} (hs : s.status = .busy) (h : startDecompress s = .next t)
    (hf : t.status = .failed) : t = raise .invalidMagic s ∨ t = raise .corrupt s := by
  obtain hr | hr | ⟨-, hr⟩ := startDecompress_cases s
  · cases hr.symm.trans h
    exact .inl rfl
  · cases hr.symm.trans h
    exact .inr rfl
  · cases hr.symm.trans h
    cases hs.symm.trans hf

/-- A host act that leaves the block failed: an access after a failure, or a start that fails (60 R190). -/
theorem hostStep_fails {a : HostAct} {s t : State} (h : hostStep a s = .next t) (hf : t.status = .failed) :
    t = { s with port := none } ∨
    ∃ c, a = .start c ∧
      ((∃ wb mh, c.job = .compress wb mh ∧ 0xFFFFFF < c.srcLen ∧ t = raise .inputTooLarge (latch c s)) ∨
        (c.job = .decompress ∧ (t = raise .invalidMagic (latch c s) ∨ t = raise .corrupt (latch c s)))) := by
  obtain ⟨r, hr⟩ | ⟨-, c, rfl, -, ⟨wb, mh, hj, hc⟩ | ⟨hj, hd⟩⟩ | ⟨-, hn⟩ := hostStep_cases a s
  · cases hr.symm.trans h
  · obtain ⟨hlen, ht⟩ := startCompress_fails (latch_status c s) (hc.symm.trans h) hf
    rw [(latch_latched c s).srcLen] at hlen
    exact .inr ⟨c, rfl, .inl ⟨wb, mh, hj, hlen, ht⟩⟩
  · exact .inr ⟨c, rfl, .inr ⟨hj, startDecompress_fails (latch_status c s) (hd.symm.trans h) hf⟩⟩
  · cases hn.symm.trans h
    exact .inl rfl

/-- A step without a host act that leaves the block failed: it had failed, or DECOMPRESS raises Corrupt (60 R190). -/
theorem step_fails_without_act {s t : State} (hp : s.port = none) (h : step s = .next t) (hf : t.status = .failed) :
    (s.status = .failed ∧ t.err = s.err ∧ t.op = s.op) ∨ (s.op = .decompress ∧ t = raise .corrupt s) := by
  obtain ⟨-, rfl⟩ | ⟨-, hframe | ⟨u, -, rfl⟩⟩ | ⟨ho, hframe | rfl | rfl⟩ := step_without_act hp h
  · exact .inl ⟨hf, rfl, rfl⟩
  · rw [hframe] at hf ⊢
    exact .inl ⟨hf, rfl, rfl⟩
  · cases hf
  · rw [hframe] at hf ⊢
    exact .inl ⟨hf, rfl, rfl⟩
  · exact .inr ⟨ho, rfl⟩
  · cases hf

/-- Settles O26: by `hostStep_fails` for a host act and `step_fails_without_act` for any other step. -/
theorem failuresByOperation : Obligations.FailuresByOperation := by
  intro s t h hf
  cases hp : s.port with
  | none =>
    obtain hkept | ⟨ho, rfl⟩ := step_fails_without_act hp h hf
    · exact .inl hkept
    · exact .inr ⟨rfl, hp, .inr (.inr ⟨rfl, .inr ⟨rfl, ho⟩⟩)⟩
  | some a =>
    obtain rfl | ⟨c, rfl, ⟨wb, mh, hj, hlen, rfl⟩ | ⟨hj, rfl | rfl⟩⟩ := hostStep_fails ((step_act hp).symm.trans h) hf
    · exact .inl ⟨hf, rfl, rfl⟩
    · exact .inr ⟨rfl, latch_port c s, .inl ⟨rfl, c, wb, mh, rfl, hj, hlen⟩⟩
    · exact .inr ⟨rfl, latch_port c s, .inr (.inl ⟨rfl, c, rfl, hj⟩)⟩
    · exact .inr ⟨rfl, latch_port c s, .inr (.inr ⟨rfl, .inl ⟨c, rfl, hj⟩⟩)⟩

/-! ## Which step ends an operation with success (60 R198) -/

/-- COMPRESS ends only past its last position (42 R145). -/
theorem compressStep_ends {s t : State} (ho : s.op = .compress) (h : compressStep s = .next t) (hi : t.op = .idle) :
    s.srcLen ≤ s.scan ∧ ∃ u, t = complete u := by
  obtain ⟨-, u, hu, hframe, -⟩ | ⟨hscan, u, -, hu⟩ := compressStep_cases s
  · cases hu.symm.trans h
    rw [hframe] at hi
    cases ho.symm.trans hi
  · cases hu.symm.trans h
    exact ⟨hscan, _, rfl⟩

/-- DECOMPRESS ends without a failure only at the passed final check (43 R172). -/
theorem decompressStep_ends {s t : State} (ho : s.op = .decompress) (h : decompressStep s = .next t)
    (hi : t.op = .idle) (hn : t.status ≠ .failed) : s.dstate = .done ∧ s.wp = s.size ∧ t = complete s := by
  obtain ⟨u, hu, hframe, -⟩ | hu | ⟨hu, hd, hw⟩ := decompressStep_cases ho
  · cases hu.symm.trans h
    rw [hframe] at hi
    cases ho.symm.trans hi
  · cases hu.symm.trans h
    exact absurd rfl hn
  · cases hu.symm.trans h
    exact ⟨hd, hw, rfl⟩

/-- Settles O27: both ends are `complete` (`compressStep_ends`, `decompressStep_ends`). -/
theorem successEndsOperation : Obligations.SuccessEndsOperation := by
  intro s t hp hne h hi hn
  cases ho : s.op with
  | idle => exact absurd ho hne
  | compress =>
    obtain ⟨hscan, u, rfl⟩ := compressStep_ends ho ((step_encoding ⟨hp, ho⟩).symm.trans h) hi
    exact ⟨rfl, rfl, fun _ => hscan, nofun⟩
  | decompress =>
    obtain ⟨hd, hw, rfl⟩ := decompressStep_ends ho ((step_decompress hp ho).symm.trans h) hi hn
    exact ⟨rfl, rfl, nofun, fun _ => ⟨hd, hw, rfl⟩⟩

/-! ## What is refused (60 R212, 70 R227) -/

/-- Without a host act every step has a next state. -/
theorem step_next_without_act {s : State} (hp : s.port = none) : ∃ t, step s = .next t := by
  cases ho : s.op with
  | idle => exact ⟨s, by simp only [step, hp, ho]⟩
  | compress => exact ⟨_, (step_encoding ⟨hp, ho⟩).trans (compressStep_eq s)⟩
  | decompress =>
    rw [step_decompress hp ho]
    obtain ⟨t, h, -⟩ | h | ⟨h, -⟩ := decompressStep_cases ho
    all_goals exact ⟨_, h⟩

/-- While an operation runs no act is taken (70 R227; log 21). -/
theorem hostStep_busy (a : HostAct) {s : State} (hs : s.status = .busy) : ∃ r, hostStep a s = .refused r := by
  have hb : s.busy = true := beq_iff_eq.2 hs
  cases a with
  | start c => exact ⟨_, if_pos hb⟩
  | access sp => exact ⟨_, if_pos hb⟩
  | cancel => exact ⟨_, rfl⟩

/-- An idle block answers a start command outside the contract with the refusal's name (60 R212). -/
theorem step_started_refused {s : State} {c : StartCmd} {r : Refusal} (hs : s.status ≠ .busy)
    (h : startRefusal c = some r) : step (started s c) = .refused r := by
  rw [step_started hs, startOperation, h]

section
variable {c : StartCmd}

theorem startRefusal_srcLen (h : 2 ^ 32 ≤ c.srcLen) : startRefusal c = some .srcLenTooLarge := if_pos h

theorem srcLen_below_limit (hl : c.srcLen < 2 ^ 32) : ¬c.srcLen ≥ Config.srcLenLimit := Nat.not_le.2 hl

theorem startRefusal_overlap (hl : c.srcLen < 2 ^ 32) (hd : c.disjoint = false) :
    startRefusal c = some .buffersOverlap := by
  rw [startRefusal, if_neg (srcLen_below_limit hl), hd]
  rfl

/-- With the buffers in order a start of COMPRESS is judged by its two parameters, `WINDOW_BITS` first. -/
theorem startRefusal_compress {wb mh : Option Int} (hl : c.srcLen < 2 ^ 32) (hd : c.disjoint = true)
    (hj : c.job = .compress wb mh) :
    startRefusal c =
      if !windowBitsOk wb then some .windowBitsOutOfRange else if !maxHopsOk mh then some .maxHopsNegative else none := by
  rw [startRefusal, if_neg (srcLen_below_limit hl), hd, hj]
  rfl

end

theorem windowBitsOk_some (w : Int) : windowBitsOk (some w) = true ↔ 0 ≤ w ∧ w ≤ 17 := by
  rw [windowBitsOk, Bool.and_eq_true, decide_eq_true_eq, decide_eq_true_eq]
  rfl

theorem maxHopsOk_some (h : Int) : maxHopsOk (some h) = true ↔ 0 ≤ h := decide_eq_true_iff

/-- Settles O31: a step without an act completes, a running operation takes no act, and each start command outside the
contract meets its own check (`startRefusal_srcLen`, `startRefusal_overlap`, `startRefusal_compress`). -/
theorem hostActsRefused : Obligations.HostActsRefused := by
  refine ⟨fun s r h hp => ?_, fun s a hs ha => ?_, fun s c hs => ⟨fun hl => ?_, fun hl hd => ?_,
    fun hl hd wb mh hj => ⟨fun w hw hout => ?_, fun hw h hh hneg => ?_⟩⟩⟩
  · obtain ⟨t, ht⟩ := step_next_without_act hp
    cases ht.symm.trans h
  · rw [step_act ha]
    exact hostStep_busy a hs
  · exact step_started_refused hs (startRefusal_srcLen hl)
  · exact step_started_refused hs (startRefusal_overlap hl hd)
  · subst hw
    have hbad : windowBitsOk (some w) = false := by
      rw [Bool.eq_false_iff, Ne, windowBitsOk_some]
      omega
    refine step_started_refused hs ((startRefusal_compress hl hd hj).trans ?_)
    rw [hbad]
    rfl
  · subst hh
    have hbad : maxHopsOk (some h) = false := by
      rw [Bool.eq_false_iff, Ne, maxHopsOk_some]
      omega
    refine step_started_refused hs ((startRefusal_compress hl hd hj).trans ?_)
    rw [hw, hbad]
    rfl

end Sys2Proof.Machine

/-! SUPPORT. A start command of COMPRESS from its parameters to its first state, and the run of COMPRESS to its end
(10 R39, 42 R131, 60 R191, 70 R225, R242): O32 and O37. -/

namespace Sys2Proof.Machine

/-! ## A start within the contract (70 R225) -/

/-- A parameter that is not negative is latched as it is given, and as its default where it is not (00 R6). -/
theorem paramOr_eq_getD {p : Option Int} (h : ∀ x, p = some x → 0 ≤ x) (d : Nat) : (paramOr p d : Int) = p.getD d := by
  cases p with
  | none => rfl
  | some x => exact Int.toNat_of_nonneg (h x rfl)

theorem windowBits_nonneg {wb : Option Int} (h : windowBitsOk wb = true) (w : Int) (hw : wb = some w) : 0 ≤ w :=
  ((windowBitsOk_some w).1 (hw ▸ h)).1

theorem maxHops_nonneg {mh : Option Int} (h : maxHopsOk mh = true) (n : Int) (hn : mh = some n) : 0 ≤ n :=
  (maxHopsOk_some n).1 (hn ▸ h)

/-- A COMPRESS within the contract is not refused: what is left is the start step on the fresh state, whatever the
length (60 R191, R212). -/
theorem step_started_startCompress {s : State} {bs : List Byte} {wb mh : Option Int} (hs : s.status ≠ .busy)
    (hn : bs.length < 2 ^ 32) (hw : windowBitsOk wb = true) (hm : maxHopsOk mh = true) :
    step (started s (Ref.compressCmd bs wb mh)) =
      startCompress (latch (Ref.compressCmd bs wb mh) (started s (Ref.compressCmd bs wb mh))) := by
  have hr : startRefusal (Ref.compressCmd bs wb mh) = none := by
    rw [startRefusal_compress hn rfl rfl, hw, hm]
    rfl
  rw [step_started hs, startOperation, hr]
  rfl

/-- Settles O32: the start step is `startCompress` on the latched state, which writes the header (`compressStart`) or
raises by the length alone; SRC is the buffer (`read_cells`) and the parameters are natural (`paramOr_eq_getD`). -/
theorem startLatchesParameters : Obligations.StartLatchesParameters := by
  intro s bs wb mh hs hn hw hm
  by_cases hlen : bs.length ≤ 0xFFFFFF
  · refine ⟨compressStart s bs wb mh, (step_compressStart hs hlen hw hm).1, rfl, fun _ => ?_,
      fun h => absurd hlen (Nat.not_le.2 h)⟩
    refine ⟨rfl, rfl, rfl, rfl, fun a => ?_, ?_, ?_, rfl, rfl, rfl, fun _ => rfl⟩
    · rw [compressStart_src, read_cells]
    · exact paramOr_eq_getD (windowBits_nonneg hw) 17
    · exact paramOr_eq_getD (maxHops_nonneg hm) 50
  · have hlarge : 0xFFFFFF < bs.length := Nat.lt_of_not_le hlen
    exact ⟨_, (step_started_startCompress hs hn hw hm).trans (startCompress_tooLarge hlarge), rfl,
      fun h => absurd h hlen, fun _ => ⟨rfl, rfl, rfl⟩⟩

/-! ## The run of COMPRESS ends (70 R242) -/

/-- Settles O37: `compress_run` with nothing to keep from position to position; its last step is `complete`. -/
theorem compressEnds : Obligations.CompressEnds := by
  intro s hs hle
  obtain ⟨u, -, -, -, -, hrun⟩ := compress_run (P := fun _ => True) (fun _ _ _ => trivial) hs hle trivial
  exact ⟨_, hrun, rfl, rfl, rfl⟩

end Sys2Proof.Machine
